-- ==== Sys2Proof/Word.lean ====
section
/-! DEFINITION. The word types of the block (00_scope.md section 6: `u8`, `u16`, `u32`). -/

namespace Sys2Proof

/-- `u8`: a byte of the wire, of a buffer or of a field. -/
abbrev Byte := BitVec 8

/-- `u16`: a length, an offset or an index. -/
abbrev Half := BitVec 16

/-- `u32`: the raw word of an IR frame. -/
abbrev Word := BitVec 32

end Sys2Proof
end

