-- ==== Sys2Proof/Config.lean ====
section
/-! DEFINITION. The configuration record of 00_scope.md rule R5 and the constants the source fixes.
Parameters the spec marks "decided" are fields (their values here are R5's defaults); values it marks "fixed" are
plain definitions. The legality of a configuration is `Config.Legal` in Sys2Proof/Machine/Operands.lean. -/

namespace Sys2Proof

/-- The implementation parameters of rule R5 with status "decided". Constant for the life of the model. -/
structure Config where
  /-- `RX_BUF_CAP`, capacity of the reception buffer in bytes (D3). -/
  rxBufCap : Nat := 1200
  /-- `CHK_COVERS_LEN`, whether the length bytes are XORed into the checksum (D2, conflict C1). -/
  chkCoversLen : Bool := true
  /-- `TICK_W`, width of the tick counter in bits (D11). -/
  tickW : Nat := 32
  /-- `TICK_US`, nominal tick period in microseconds; no rule reads it (D11, R116). -/
  tickUs : Nat := 1
  /-- `T_LEAD_MARK` in ticks (D14; PRESUMED by the spec from general knowledge, K1). -/
  tLeadMark : Nat := 9000
  /-- `T_LEAD_SPACE` in ticks (D14, K1). -/
  tLeadSpace : Nat := 4500
  /-- `T_REPEAT_SPACE` in ticks (D14, K1). -/
  tRepeatSpace : Nat := 2250
  /-- `T_BIT_MARK` in ticks (D14, K1). -/
  tBitMark : Nat := 560
  /-- `T_ZERO_SPACE` in ticks (D14, K1). -/
  tZeroSpace : Nat := 560
  /-- `T_ONE_SPACE` in ticks (D14, K1). -/
  tOneSpace : Nat := 1690
  /-- `IR_MARK_LEVEL`, electrical level of the IR pin during a mark; only rule R14 reads it (D12, K2). -/
  irMarkLevel : Bool := false
  deriving DecidableEq, Repr

namespace Config

/-- `FB_BYTES`: 8 pages of 128 bytes (R5). -/
abbrev fbBytes : Nat := 1024

/-- `RESP_BUF_CAP` (R5, D27). -/
abbrev respBufCap : Nat := 255

/-- `TX_MAX_PAYLOAD` (R5, D10). -/
abbrev txMaxPayload : Nat := 65534

/-- `IR_BITS` (R5). -/
abbrev irBits : Nat := 32

/-- `BAUD` of the reference system (R5); no rule reads it. -/
def baud : Nat := 460800

/-- What stands at an index of RXBUF that nothing has written: unspecified (R29, R211, U2), so a free value without a
body (log entry 10). -/
opaque unwrittenRx : Nat → Byte

/-- What stands at an index of RESPBUF that nothing has written: unspecified (R29, R211, U2), so a free value without a
body (log entry 10). -/
opaque unwrittenResp : Nat → Byte

end Config

end Sys2Proof
end

