-- ==== Sys2Proof/Syntax.lean ====
section
/-! DEFINITION. The instructions: one constructor for each row of spec/opcode_table.json, in the table's order.
00_scope.md section 8 maps "instruction" onto the block's operations and, for `DISP.POLL` on a packet, onto the seven
command rules; the table adds the cases of each operation and the three formats. -/

namespace Sys2Proof

/-- A line state of the IR input (10_state.md rule R14): `SPACE` is 0, `MARK` is 1. -/
inductive Level where
  | space
  | mark
  deriving DecidableEq, Repr

/-- The six request codes a received packet may carry (30_encoding.md rule R66 without `REMOTE_BUTTON`, which is
device to host only). -/
inductive Request where
  | nop
  | displayFlush
  | displayPower
  | displayBrightness
  | busWrite
  | busRead
  deriving DecidableEq, Repr

/-- One constructor per row of the opcode table. -/
inductive Instr where
  /-- `NOP`, code 0x00 (R153). -/
  | nop
  /-- `DISPLAY_FLUSH`, code 0xDE (R154). -/
  | displayFlush
  /-- `DISPLAY_POWER`, code 0xA9 (R155). -/
  | displayPower
  /-- `DISPLAY_BRIGHTNESS`, code 0xBA (R156). -/
  | displayBrightness
  /-- `BUS_WRITE`, code 0x9A (R157). -/
  | busWrite
  /-- `BUS_READ`, code 0x9B (R158); `r` is the draw the bus driver returns (R150). -/
  | busRead (r : List Byte)
  /-- `REMOTE_BUTTON`, code 0xDA (R159): handling an IR event. -/
  | remoteButton
  /-- `UNKNOWN_COMMAND` (R161); `c` is the unknown code. -/
  | unknownCommand (c : Byte)
  /-- `RESET`, event id 0 (R210). -/
  | reset
  /-- `RX.BYTE(b)`, event id 1 (R80). -/
  | rxByte (b : Byte)
  /-- `TX.BYTE`, event id 2 (R103). -/
  | txByte
  /-- `TICK.PULSE`, event id 3 (R117). -/
  | tickPulse
  /-- `IR.EDGE(l)`, event id 4 (R127). -/
  | irEdge (l : Level)
  /-- `DISP.POLL(r)`, event id 5 (R150). -/
  | dispPoll (r : List Byte)
  /-- `TX.START(c, n)`, performed inside `DISP.POLL` (R101). -/
  | txStart (c : Byte) (n : Half)
  /-- `RX.BYTE/sync_override` (R82). -/
  | rxSyncOverride (b : Byte)
  /-- `RX.BYTE/sync_match_step` (R81). -/
  | rxSyncMatchStep (b : Byte)
  /-- `RX.BYTE/ScanningSync` (R83). -/
  | rxScanningSync (b : Byte)
  /-- `RX.BYTE/LengthLow` (R84). -/
  | rxLengthLow (b : Byte)
  /-- `RX.BYTE/LengthHigh` (R85). -/
  | rxLengthHigh (b : Byte)
  /-- `RX.BYTE/ReadingData` (R86). -/
  | rxReadingData (b : Byte)
  /-- `RX.BYTE/ReadingChecksum` (R87). -/
  | rxReadingChecksum (b : Byte)
  /-- `RX.BYTE/emit_packet` (R88). -/
  | rxEmitPacket (b : Byte)
  /-- `TX.BYTE/TX_SYNC` (R103). -/
  | txSync
  /-- `TX.BYTE/TX_LENLO` (R103). -/
  | txLenLo
  /-- `TX.BYTE/TX_LENHI` (R103). -/
  | txLenHi
  /-- `TX.BYTE/TX_CMD` (R103). -/
  | txCmd
  /-- `TX.BYTE/TX_PAYLOAD` (R103). -/
  | txPayload
  /-- `TX.BYTE/TX_CHK` (R103). -/
  | txChk
  /-- `IR.EDGE/IR_IDLE` (R128). -/
  | irIdle (l : Level)
  /-- `IR.EDGE/IR_LEAD_MARK` (R129). -/
  | irLeadMark (l : Level)
  /-- `IR.EDGE/IR_LEAD_SPACE` (R130). -/
  | irLeadSpace (l : Level)
  /-- `IR.EDGE/IR_BIT_MARK` (R132). -/
  | irBitMark (l : Level)
  /-- `IR.EDGE/IR_BIT_SPACE` (R131). -/
  | irBitSpace (l : Level)
  /-- `IR.EDGE/finish` (R133). -/
  | irFinish (l : Level)
  /-- `IR.EDGE/repeat` (R134). -/
  | irRepeatCode (l : Level)
  /-- `IR.EDGE/abort` (R135). -/
  | irAbort (l : Level)
  /-- `IR.EDGE/raise_event` (R136). -/
  | irRaiseEvent (a c : Byte)
  /-- `WIRE_FRAME` (R60, R61; the abbreviation `FRAME(c, p)` of R73). -/
  | wireFrame (c : Byte) (p : List Byte)
  /-- `IR_FRAME` (R64, R65; the abbreviation `IRWORD(w)` of R73, of which `IRFRAME(a, c)` is a case). -/
  | irFrame (w : Word)
  /-- `IR_REPEAT` (R64; the abbreviation `IRREPEAT` of R73 is `d = T_BIT_MARK`); `d` is the duration of the closing
  mark in ticks, any natural number (`MARK d` of R73), which the decoder does not check. -/
  | irRepeat (d : Nat)
  deriving DecidableEq, Repr

/-- Why a byte sequence is not an instruction (93_implementation_defined.md U5: an ill-formed script is refused). -/
inductive DecodeError where
  /-- The sequence ends inside an instruction. -/
  | truncated
  /-- The format selector names no format of the opcode table. -/
  | unknownFormat
  /-- The selector byte is no row of the named format (reserved encodings, E4). -/
  | unknownCode
  /-- An IR level operand is neither 0 (SPACE) nor 1 (MARK). -/
  | badLevel
  /-- A payload count above `TX_MAX_PAYLOAD` (R101: refused, not truncated). -/
  | payloadTooLong
  /-- The sync override named with a byte other than `SYNC[3]`. -/
  | notSyncByte
  deriving DecidableEq, Repr

end Sys2Proof
end

