-- ==== Sys2Proof/WellFormed.lean ====
section
/-! DEFINITION. Which terms of `Instr` are instructions: the operand ranges the spec gives. -/

namespace Sys2Proof

/-- The six request codes of 30_encoding.md rule R66 (`0xDA` is not one: R68). -/
def isRequestCode (c : Byte) : Bool :=
  c == 0x00 || c == 0xDE || c == 0xA9 || c == 0xBA || c == 0x9A || c == 0x9B

/-- The operand ranges of each instruction. A bus read returns at most 255 bytes (R158: the count is one byte); an
unknown command is none of the six request codes (R161); `TX.START` and a frame carry at most 65534 payload bytes
(R73, R101); the sync override is made by the fourth sync byte (R82). -/
def Instr.wf : Instr → Bool
  | .nop => true
  | .displayFlush => true
  | .displayPower => true
  | .displayBrightness => true
  | .busWrite => true
  | .busRead r => decide (r.length ≤ Config.respBufCap)
  | .remoteButton => true
  | .unknownCommand c => !isRequestCode c
  | .reset => true
  | .rxByte _ => true
  | .txByte => true
  | .tickPulse => true
  | .irEdge _ => true
  | .dispPoll r => decide (r.length ≤ Config.respBufCap)
  | .txStart _ n => decide (n.toNat ≤ Config.txMaxPayload)
  | .rxSyncOverride b => b == 0x58
  | .rxSyncMatchStep _ => true
  | .rxScanningSync _ => true
  | .rxLengthLow _ => true
  | .rxLengthHigh _ => true
  | .rxReadingData _ => true
  | .rxReadingChecksum _ => true
  | .rxEmitPacket _ => true
  | .txSync => true
  | .txLenLo => true
  | .txLenHi => true
  | .txCmd => true
  | .txPayload => true
  | .txChk => true
  | .irIdle _ => true
  | .irLeadMark _ => true
  | .irLeadSpace _ => true
  | .irBitMark _ => true
  | .irBitSpace _ => true
  | .irFinish _ => true
  | .irRepeatCode _ => true
  | .irAbort _ => true
  | .irRaiseEvent _ _ => true
  | .wireFrame _ p => decide (p.length ≤ Config.txMaxPayload)
  | .irFrame _ => true
  | .irRepeat _ => true

end Sys2Proof
end

