-- ==== Sys2Proof/Decode.lean ====
section
/-! DEFINITION. Decoding and encoding of the instructions.

The block fetches no instructions (10_state.md rule R30); the bytes decoded here are those of the MODEL's event stream
(log entries 1 and 2). An instruction is: its match byte in the opcode table; a format selector byte that says in which
of the table's formats that byte is read (event id 0, command code 1, `rx_state` 2, `tx_state` 3, `ir_phase` 4,
internal 5, rows without a match value of their own 6, abbreviations 7); its operands. The match values are the spec's
(30_encoding.md rules R66, R70; 10_state.md rules R16, R22, R24); the selector and the operand layout are the model's
DESIGN CHOICE. Two-byte operands are little-endian, as R41 has them; a
duration, which has no bound, is in digits of seven bits. -/

namespace Sys2Proof

/-- The low byte of a `u16` (R41: sent first). -/
def halfLo (h : Half) : Byte := h.extractLsb' 0 8

/-- The high byte of a `u16`. -/
def halfHi (h : Half) : Byte := h.extractLsb' 8 8

/-- `{hi, lo}` as a `u16`: `lo + 256 * hi` (R8, R62). -/
def halfOf (lo hi : Byte) : Half := hi ++ lo

/-- The word whose bytes are received in this order, first byte most significant (R42, R65). -/
def wordOf (a na c nc : Byte) : Word := ((a ++ na : Half) ++ (c ++ nc : Half) : BitVec 32)

/-- Byte `k` of a word, byte 0 the most significant: address, ~address, command, ~command (R65). -/
def wordByte (w : Word) (k : Nat) : Byte := w.extractLsb' (24 - 8 * k) 8

/-- The number of a line state (R14): `SPACE` 0, `MARK` 1. -/
def Level.toByte : Level → Byte
  | .space => 0
  | .mark => 1

/-- The request a command code names (R66); none for the 249 other values and for `0xDA` (R68). -/
def decodeRequest (c : Byte) : Option Request :=
  if c = 0x00 then some .nop
  else if c = 0xDE then some .displayFlush
  else if c = 0xA9 then some .displayPower
  else if c = 0xBA then some .displayBrightness
  else if c = 0x9A then some .busWrite
  else if c = 0x9B then some .busRead
  else none

/-- The command code of a request (R66). -/
def Request.code : Request → Byte
  | .nop => 0x00
  | .displayFlush => 0xDE
  | .displayPower => 0xA9
  | .displayBrightness => 0xBA
  | .busWrite => 0x9A
  | .busRead => 0x9B

/-- The code of the unsolicited `REMOTE_BUTTON` packet (R66). -/
def remoteButtonCode : Byte := 0xDA

/-- An instruction and the bytes after it, or why there is none. -/
abbrev Decoded := Except DecodeError (Instr × List Byte)

/-- The first `n` bytes and the rest. -/
def splitBytes : Nat → List Byte → Option (List Byte × List Byte)
  | 0, bs => some ([], bs)
  | _ + 1, [] => none
  | n + 1, b :: bs =>
    match splitBytes n bs with
    | none => none
    | some (xs, rest) => some (b :: xs, rest)

/-- One byte operand. -/
def operandByte (f : Byte → Instr) : List Byte → Decoded
  | b :: rest => .ok (f b, rest)
  | [] => .error .truncated

/-- One line-state operand. -/
def operandLevel (f : Level → Instr) : List Byte → Decoded
  | b :: rest =>
    if b = 0 then .ok (f .space, rest) else if b = 1 then .ok (f .mark, rest) else .error .badLevel
  | [] => .error .truncated

/-- A one-byte count and that many bytes. -/
def operandBytes (f : List Byte → Instr) : List Byte → Decoded
  | k :: rest =>
    match splitBytes k.toNat rest with
    | some (xs, rest') => .ok (f xs, rest')
    | none => .error .truncated
  | [] => .error .truncated

/-- A natural number in digits of seven bits, least significant first, bit 7 set on every digit but the last. -/
def splitNat : List Byte → Option (Nat × List Byte)
  | [] => none
  | b :: bs =>
    if b.toNat < 128 then some (b.toNat, bs)
    else
      match splitNat bs with
      | none => none
      | some (n, rest) => some (b.toNat - 128 + 128 * n, rest)

/-- A duration in ticks: a natural number without bound (`nat` of 00_scope.md section 6). -/
def operandNat (f : Nat → Instr) (bs : List Byte) : Decoded :=
  match splitNat bs with
  | some (n, rest) => .ok (f n, rest)
  | none => .error .truncated

/-- Format `wire_frame.cmd` (R66, R68): the command code. -/
def decodeCommand (code : Byte) (rest : List Byte) : Decoded :=
  match decodeRequest code with
  | some .nop => .ok (.nop, rest)
  | some .displayFlush => .ok (.displayFlush, rest)
  | some .displayPower => .ok (.displayPower, rest)
  | some .displayBrightness => .ok (.displayBrightness, rest)
  | some .busWrite => .ok (.busWrite, rest)
  | some .busRead => operandBytes .busRead rest
  | none => if code = remoteButtonCode then .ok (.remoteButton, rest) else .ok (.unknownCommand code, rest)

/-- A match byte with no format named (selector 0) that is no event id: the first of the table's other formats that
has a row of that value, commands before `tx_state` (log entry 2). -/
def decodeUnnamed (code : Byte) (rest : List Byte) : Decoded :=
  if code = remoteButtonCode then .ok (.remoteButton, rest)
  else if isRequestCode code then decodeCommand code rest
  else if code = 6 then .ok (.txChk, rest)
  else .error .unknownCode

/-- Format `event_id` (R70). -/
def decodeEvent (code : Byte) (rest : List Byte) : Decoded :=
  if code = 0 then .ok (.reset, rest)
  else if code = 1 then operandByte .rxByte rest
  else if code = 2 then .ok (.txByte, rest)
  else if code = 3 then .ok (.tickPulse, rest)
  else if code = 4 then operandLevel .irEdge rest
  else if code = 5 then operandBytes .dispPoll rest
  else decodeUnnamed code rest

/-- Format `rx_state`: the numbers of rule R16. -/
def decodeRxCase (code : Byte) (rest : List Byte) : Decoded :=
  if code = 0 then operandByte .rxScanningSync rest
  else if code = 1 then operandByte .rxLengthLow rest
  else if code = 2 then operandByte .rxLengthHigh rest
  else if code = 3 then operandByte .rxReadingData rest
  else if code = 4 then operandByte .rxReadingChecksum rest
  else .error .unknownCode

/-- Format `tx_state`: the numbers of rule R22. -/
def decodeTxCase (code : Byte) (rest : List Byte) : Decoded :=
  if code = 1 then .ok (.txSync, rest)
  else if code = 2 then .ok (.txLenLo, rest)
  else if code = 3 then .ok (.txLenHi, rest)
  else if code = 4 then .ok (.txCmd, rest)
  else if code = 5 then .ok (.txPayload, rest)
  else if code = 6 then .ok (.txChk, rest)
  else .error .unknownCode

/-- Format `ir_phase`: the numbers of rule R24. -/
def decodeIrCase (code : Byte) (rest : List Byte) : Decoded :=
  if code = 0 then operandLevel .irIdle rest
  else if code = 1 then operandLevel .irLeadMark rest
  else if code = 2 then operandLevel .irLeadSpace rest
  else if code = 3 then operandLevel .irBitMark rest
  else if code = 4 then operandLevel .irBitSpace rest
  else .error .unknownCode

/-- `TX.START(c, n)` (R101): `n` above `TX_MAX_PAYLOAD` is refused, not truncated. -/
def decodeInternal (code : Byte) (rest : List Byte) : Decoded :=
  if code = 0 then
    match rest with
    | c :: lo :: hi :: rest' =>
      if (halfOf lo hi).toNat ≤ Config.txMaxPayload then .ok (.txStart c (halfOf lo hi), rest')
      else .error .payloadTooLong
    | _ => .error .truncated
  else .error .unknownCode

/-- Rows that have no match value of their own: numbered by the model (log entry 2). `0xDA` is `UNKNOWN_COMMAND` with
the code `0xDA` received from the host (R161). -/
def decodeRuleRow (code : Byte) (rest : List Byte) : Decoded :=
  if code = 1 then
    match rest with
    | b :: rest' => if b = 0x58 then .ok (.rxSyncOverride b, rest') else .error .notSyncByte
    | [] => .error .truncated
  else if code = 2 then operandByte .rxSyncMatchStep rest
  else if code = 3 then operandByte .rxEmitPacket rest
  else if code = 4 then operandLevel .irFinish rest
  else if code = 5 then operandLevel .irRepeatCode rest
  else if code = 6 then operandLevel .irAbort rest
  else if code = 7 then
    match rest with
    | a :: c :: rest' => .ok (.irRaiseEvent a c, rest')
    | _ => .error .truncated
  else if code = remoteButtonCode then .ok (.unknownCommand code, rest)
  else .error .unknownCode

/-- The three formats as abbreviations of event scripts (R73): numbered by the model (log entry 2). -/
def decodeFormat (code : Byte) (rest : List Byte) : Decoded :=
  if code = 0 then
    match rest with
    | c :: lo :: hi :: rest' =>
      if (halfOf lo hi).toNat ≤ Config.txMaxPayload then
        match splitBytes (halfOf lo hi).toNat rest' with
        | some (p, rest'') => .ok (.wireFrame c p, rest'')
        | none => .error .truncated
      else .error .payloadTooLong
    | _ => .error .truncated
  else if code = 1 then
    match rest with
    | a :: na :: c :: nc :: rest' => .ok (.irFrame (wordOf a na c nc), rest')
    | _ => .error .truncated
  else if code = 2 then operandNat .irRepeat rest
  else .error .unknownCode

/-- The decoder: total on any bytes; the instruction at the front and the bytes after it, or the reason there is
none. -/
def decode : List Byte → Decoded
  | code :: sel :: rest =>
    if sel = 0 then decodeEvent code rest
    else if sel = 1 then decodeCommand code rest
    else if sel = 2 then decodeRxCase code rest
    else if sel = 3 then decodeTxCase code rest
    else if sel = 4 then decodeIrCase code rest
    else if sel = 5 then decodeInternal code rest
    else if sel = 6 then decodeRuleRow code rest
    else if sel = 7 then decodeFormat code rest
    else .error .unknownFormat
  | _ => .error .truncated

/-- A one-byte count and the bytes. -/
def countedBytes (r : List Byte) : List Byte := BitVec.ofNat 8 r.length :: r

/-- The digits of a natural number, as `splitNat` reads them; the first argument bounds their count. -/
def natDigits : Nat → Nat → List Byte
  | 0, n => [BitVec.ofNat 8 n]
  | k + 1, n => if n < 128 then [BitVec.ofNat 8 n] else BitVec.ofNat 8 (n % 128 + 128) :: natDigits k (n / 128)

/-- A natural number as an operand; it has at most as many digits as its value. -/
def natBytes (n : Nat) : List Byte := natDigits n n

/-- The encoder: the bytes of an instruction. -/
def encode : Instr → List Byte
  | .nop => [0x00, 1]
  | .displayFlush => [0xDE, 1]
  | .displayPower => [0xA9, 1]
  | .displayBrightness => [0xBA, 1]
  | .busWrite => [0x9A, 1]
  | .busRead r => 0x9B :: 1 :: countedBytes r
  | .remoteButton => [0xDA, 1]
  | .unknownCommand c => if c = remoteButtonCode then [c, 6] else [c, 1]
  | .reset => [0, 0]
  | .rxByte b => [1, 0, b]
  | .txByte => [2, 0]
  | .tickPulse => [3, 0]
  | .irEdge l => [4, 0, l.toByte]
  | .dispPoll r => 5 :: 0 :: countedBytes r
  | .txStart c n => [0, 5, c, halfLo n, halfHi n]
  | .rxSyncOverride b => [1, 6, b]
  | .rxSyncMatchStep b => [2, 6, b]
  | .rxScanningSync b => [0, 2, b]
  | .rxLengthLow b => [1, 2, b]
  | .rxLengthHigh b => [2, 2, b]
  | .rxReadingData b => [3, 2, b]
  | .rxReadingChecksum b => [4, 2, b]
  | .rxEmitPacket b => [3, 6, b]
  | .txSync => [1, 3]
  | .txLenLo => [2, 3]
  | .txLenHi => [3, 3]
  | .txCmd => [4, 3]
  | .txPayload => [5, 3]
  | .txChk => [6, 3]
  | .irIdle l => [0, 4, l.toByte]
  | .irLeadMark l => [1, 4, l.toByte]
  | .irLeadSpace l => [2, 4, l.toByte]
  | .irBitMark l => [3, 4, l.toByte]
  | .irBitSpace l => [4, 4, l.toByte]
  | .irFinish l => [4, 6, l.toByte]
  | .irRepeatCode l => [5, 6, l.toByte]
  | .irAbort l => [6, 6, l.toByte]
  | .irRaiseEvent a c => [7, 6, a, c]
  | .wireFrame c p =>
    0 :: 7 :: c :: halfLo (BitVec.ofNat 16 p.length) :: halfHi (BitVec.ofNat 16 p.length) :: p
  | .irFrame w => [1, 7, wordByte w 0, wordByte w 1, wordByte w 2, wordByte w 3]
  | .irRepeat d => 2 :: 7 :: natBytes d

/-- The bytes of a script: the encodings of its lines, in order. -/
def encodeAll (is : List Instr) : List Byte := is.flatMap encode

/-- The `k` least significant bytes of `w`, least significant first. -/
def lowBytes : Nat → Nat → List Byte
  | 0, _ => []
  | k + 1, w => BitVec.ofNat 8 w :: lowBytes k (w / 256)

/-- The bytes of a table word: `nbits` bits of `w` from the first byte's bit 0 up, and zero operand bytes after them
(eight are as many as an instruction of zero operands has). -/
def tableBytes (nbits w : Nat) : List Byte := lowBytes ((nbits + 7) / 8 + 8) (w % 2 ^ nbits)

/-- The instruction the decoder reads from an instruction whose bits are `w`. -/
def decodeTableWord (nbits w : Nat) : Option Instr :=
  match decode (tableBytes nbits w) with
  | .ok (i, _) => some i
  | .error _ => none

end Sys2Proof
end

