-- ==== Sys2Proof/Machine/State.lean ====
section
/-! DEFINITION. The state of the block (10_state.md rule R10), as plain data, one structure per unit ("owned state
objects, one instance each"), with the model's own fields that rules R5, R35, R180 and R220 ask a model to keep; the
reasons a step can stop; the state after reset. -/

namespace Sys2Proof.Machine

/-- `rx_state` (R16), in the numeric order of the spec, 0 to 4. -/
inductive RxState where
  | scanningSync
  | lengthLow
  | lengthHigh
  | readingData
  | readingChecksum
  deriving DecidableEq, Repr

/-- `tx_state` (R22), in the numeric order of the spec, 0 to 6. -/
inductive TxState where
  | idle
  | sync
  | lenLo
  | lenHi
  | cmd
  | payload
  | chk
  deriving DecidableEq, Repr

/-- `ir_phase` (R24), in the numeric order of the spec, 0 to 4. -/
inductive IrPhase where
  | idle
  | leadMark
  | leadSpace
  | bitMark
  | bitSpace
  deriving DecidableEq, Repr

/-- The Frame Receiver's registers (R16 to R20). -/
structure RxUnit where
  state : RxState
  syncCnt : BitVec 2
  len : Half
  off : Half
  chk : Byte
  deriving DecidableEq, Repr

/-- The packet mailbox (R21). -/
structure PktBox where
  pending : Bool
  cmd : Byte
  len : Half
  deriving DecidableEq, Repr

/-- The Frame Sender's registers (R22). -/
structure TxUnit where
  state : TxState
  idx : Half
  len : Half
  cmd : Byte
  chk : Byte
  deriving DecidableEq, Repr

/-- The Tick Source's registers (R23); `cnt` is a count below `2^TICK_W` (log entry 14). -/
structure TickUnit where
  en : Bool
  cnt : Nat
  deriving DecidableEq, Repr

/-- The IR Decoder's registers (R24 to R26). -/
structure IrUnit where
  level : Level
  phase : IrPhase
  bitIdx : BitVec 6
  word : Word
  lastMark : Bool
  lastValid : Bool
  lastAddr : Byte
  lastCmd : Byte
  deriving DecidableEq, Repr

/-- The IR mailbox (R27). -/
structure IrBox where
  pending : Bool
  addr : Byte
  cmd : Byte
  deriving DecidableEq, Repr

/-- The two address spaces (R40). -/
inductive Space where
  | rxbuf
  | respbuf
  deriving DecidableEq, Repr

/-- A byte array: the bytes written, indices strictly rising; what stands at an index not listed is free (R211; log
entry 10). -/
abbrev Memory := List Host.Cell

/-- The nine drop causes (R181), in the order of the spec's numbers 1 to 9. -/
inductive Drop where
  | checksum
  | zeroLength
  | oversize
  | resync
  | unknownCommand
  | shortPayload
  | irTiming
  | irComplement
  | irRepeatNoFrame
  deriving DecidableEq, Repr

/-- A driver call with its arguments (R152); for `flush` and `busWrite` the byte values passed. -/
inductive DrvCall where
  | powerOn
  | powerOff
  | setBrightness (level : Byte)
  | flush (fb : List Byte)
  | busWrite (addr : Byte) (data : List Byte)
  | busRead (addr : Byte) (count : Byte)
  deriving DecidableEq, Repr

/-- An observable output of the block (R35, R72). -/
inductive Output where
  | tx (b : Byte)
  | call (c : DrvCall)
  deriving DecidableEq, Repr

/-- The state. The fields up to `respLen` are the hardware's (R10); `cfg` is the configuration (R5); `events`,
`outputs`, `drops` and `faultSeen` are the model's (R35, R180, R220). -/
structure State where
  rx : RxUnit
  pkt : PktBox
  tx : TxUnit
  tick : TickUnit
  ir : IrUnit
  irBox : IrBox
  rxBuf : Memory
  respBuf : Memory
  respLen : Byte
  cfg : Config
  events : List Byte
  outputs : List Output
  drops : List Drop
  faultSeen : Bool
  deriving DecidableEq, Repr

/-- Why the machine stops with a fault. -/
inductive Fault where
  /-- An index outside a buffer (R45, U18: never a wrap). Raised by the buffer reads and writes of RX, TX and DISP; no
  rule generates one. Safe. -/
  | indexOutOfRange (space : Space) (index : Nat)
  /-- `tx_idx` above 3 in `TX_SYNC`: a value no rule writes (R34 item 9, U17: a reserved register value is a fault).
  Raised by the TX_SYNC case of TX.BYTE. Safe. -/
  | reservedSyncIndex (index : Nat)
  deriving DecidableEq, Repr

/-- Why the machine refuses an instruction. -/
inductive Refusal where
  /-- An instruction that has no meaning yet, by its mnemonic. Safe. -/
  | notModelled (mnemonic : String)
  /-- The event stream does not hold an instruction (U5: an ill-formed script is refused). Raised by the step. Safe. -/
  | illFormedScript (e : DecodeError)
  /-- `IR.EDGE(l)` with `l == ir_level` is not enabled (R14, R72, U6). Raised by IR.EDGE. Safe. -/
  | edgeNotEnabled
  /-- `TX.START` while the sender is busy or with more than 255 bytes (R101, U8). Raised by TX.START. Safe. -/
  | txStartNotEnabled
  /-- A frame of more than 65534 payload bytes (R73, R101: refused, not truncated). Raised by WIRE_FRAME. Safe. -/
  | payloadTooLong
  /-- A poll that supplies fewer bytes than the bus read's count (R158, U5). Raised by DISP.POLL and BUS_READ. Safe. -/
  | busReadShort
  /-- A row that names one case of an operation, in a state that does not select that case (log entry 3). Raised by
  the rows of the formats `wire_frame.cmd`, `rx_state`, `tx_state` and `ir_phase`. Safe. -/
  | notSelected
  deriving DecidableEq, Repr

/-- What an instruction's meaning answers. -/
abbrev Result := Host.Outcome State Fault Refusal

namespace State

/-- The state right after reset (R10, R210, R211): every scalar register 0 or idle, both arrays unspecified (nothing
listed), the configuration at R5's defaults, nothing offered, nothing recorded, no fault seen (R220). -/
def reset : State where
  rx := { state := .scanningSync, syncCnt := 0, len := 0, off := 0, chk := 0 }
  pkt := { pending := false, cmd := 0, len := 0 }
  tx := { state := .idle, idx := 0, len := 0, cmd := 0, chk := 0 }
  tick := { en := false, cnt := 0 }
  ir := { level := .space, phase := .idle, bitIdx := 0, word := 0, lastMark := false, lastValid := false,
          lastAddr := 0, lastCmd := 0 }
  irBox := { pending := false, addr := 0, cmd := 0 }
  rxBuf := []
  respBuf := []
  respLen := 0
  cfg := {}
  events := []
  outputs := []
  drops := []
  faultSeen := false

end State

end Sys2Proof.Machine
end

