-- ==== Sys2Proof/Machine/Operands.lean ====
section
/-! DEFINITION. The operand forms: the tolerance windows and which configurations are legal (R5, R9, R126), the sync
pattern (R5), the fields of the IR word (R65), the payload fields and least payloads of the commands (R67), the
arguments of a driver call on the driver port (R152). -/

namespace Sys2Proof.Machine

/-- `delta(x) = (x * 3) div 10`, multiplied first, in naturals (R9). -/
def winDelta (x : Nat) : Nat := x * 3 / 10

/-- `lo(x)` (R9). -/
def winLo (x : Nat) : Nat := x - winDelta x

/-- `hi(x)` (R9). -/
def winHi (x : Nat) : Nat := x + winDelta x

/-- `inwin(d, x)`: both ends inside (R9). -/
def inwin (d x : Nat) : Bool := decide (winLo x ≤ d) && decide (d ≤ winHi x)

/-- The windows of two nominal durations do not meet (R5, R126). -/
abbrev WindowsDisjoint (x y : Nat) : Prop := winHi x < winLo y ∨ winHi y < winLo x

/-- The constraint R5 puts on one nominal duration. -/
abbrev DurationLegal (tickW x : Nat) : Prop := 1 ≤ x ∧ winHi x < 2 ^ tickW - 1

/-- The constraints a configuration must meet (R5). -/
abbrev ConfigLegal (cfg : Config) : Prop :=
  1025 ≤ cfg.rxBufCap ∧ cfg.rxBufCap ≤ 65535 ∧ 16 ≤ cfg.tickW ∧
  DurationLegal cfg.tickW cfg.tLeadMark ∧ DurationLegal cfg.tickW cfg.tLeadSpace ∧
  DurationLegal cfg.tickW cfg.tRepeatSpace ∧ DurationLegal cfg.tickW cfg.tBitMark ∧
  DurationLegal cfg.tickW cfg.tZeroSpace ∧ DurationLegal cfg.tickW cfg.tOneSpace ∧
  WindowsDisjoint cfg.tLeadSpace cfg.tRepeatSpace ∧ WindowsDisjoint cfg.tZeroSpace cfg.tOneSpace

/-- The sync pattern in wire order (R5). -/
def syncPattern : List Byte := [0x91, 0xEB, 0xFA, 0x58]

/-- `SYNC[k]`, "the next expected sync byte" when `sync_cnt = k` (R17). -/
def syncByte (k : BitVec 2) : Byte :=
  if k = 0 then 0x91 else if k = 1 then 0xEB else if k = 2 then 0xFA else 0x58

/-- `pkt_ptr`, the hardwired constant 1: the index of the first payload byte in `rx_buf` (R21, R47). -/
def State.pktPtr (_ : State) : Nat := 1

/-- The least payload byte count for which a request's driver call is made (R67, R160). -/
def leastPayload : Request → Nat
  | .nop => 0
  | .displayFlush => Config.fbBytes
  | .displayPower => 1
  | .displayBrightness => 1
  | .busWrite => 1
  | .busRead => 2

/-- The address byte of an IR word (R65). -/
def irAddrOf (w : Word) : Byte := wordByte w 0

/-- The command byte of an IR word (R65). -/
def irCmdOf (w : Word) : Byte := wordByte w 2

/-- Both complement pairs match (R65, R133): `~a` is `0xFF - a`. -/
def complementsMatch (w : Word) : Bool := wordByte w 1 == ~~~ wordByte w 0 && wordByte w 3 == ~~~ wordByte w 2

/-- The word `{a, ~a, c, ~c}` (R73 `IRFRAME(a, c)`). -/
def irWordFor (a c : Byte) : Word := wordOf a (~~~ a) c (~~~ c)

/-- `(ir_word << 1) | v`: the next bit enters at bit 0 (R131). -/
def shiftInBit (w : Word) (v : Bool) : Word := (w <<< 1) ||| (if v then 1 else 0)

/-- `drv_op` of a driver call (R15, R152). -/
def DrvCall.op : DrvCall → BitVec 3
  | .powerOn => 1
  | .powerOff => 2
  | .setBrightness _ => 3
  | .flush _ => 4
  | .busWrite _ _ => 5
  | .busRead _ _ => 6

/-- `drv_arg0` of a driver call (R152). -/
def DrvCall.arg0 : DrvCall → Byte
  | .powerOn => 0
  | .powerOff => 0
  | .setBrightness level => level
  | .flush _ => 0
  | .busWrite addr _ => addr
  | .busRead addr _ => addr

/-- `drv_arg1` of a driver call (R152). -/
def DrvCall.arg1 : DrvCall → Half
  | .powerOn => 0
  | .powerOff => 0
  | .setBrightness _ => 0
  | .flush _ => 1024
  | .busWrite _ data => BitVec.ofNat 16 data.length
  | .busRead _ count => count.setWidth 16

end Sys2Proof.Machine
end

