-- ==== Sys2Proof/Machine/Columns.lean ====
section
/-! DEFINITION. The columns of the five operations (10_state.md rule R32): what the step function of each operation
takes and returns, and nothing else. A structure lists first what its operation reads, then what it writes; a column
the operation writes and does not read is an `Option` (or a flag) that says whether it is written. Taking the columns of
a state and writing them back stand in Machine/Ops.lean. `cfg` is the configuration (R5); what the trace records (R35,
R180, R220) is returned, never taken. -/

namespace Sys2Proof.Machine

/-- The answer of a step function over its columns `C`. -/
abbrev Answer (C : Type) := Host.Outcome C Fault Refusal

/-- The columns of `RX.BYTE` (R32). -/
structure RxColumns where
  cfg : Config
  /-- `rx_state`, `sync_cnt`, `rx_len`, `rx_off`, `rx_chk`: read and written. -/
  rx : RxUnit
  /-- `rx_buf[0]`: read, at emission. -/
  first : Byte
  /-- `rx_buf[i]`: written, in `ReadingData`. -/
  store : Option (Nat × Byte)
  /-- `pkt_cmd` and `pkt_len`, with `pkt_pending` set: written, at emission. -/
  packet : Option (Byte × Half)
  /-- The drop raised. -/
  dropped : Option Drop
  deriving DecidableEq, Repr

/-- The columns of `TX.BYTE` (R32, R103). -/
structure TxColumns where
  cfg : Config
  /-- `tx_state`, `tx_idx`, `tx_chk`: read and written; `tx_len`, `tx_cmd`: read. -/
  tx : TxUnit
  /-- `resp_buf[tx_idx]`: read. -/
  respByte : Byte
  /-- The byte transferred. -/
  sent : Option Byte
  deriving DecidableEq, Repr

/-- The columns of `TICK.PULSE` (R32). -/
structure TickColumns where
  cfg : Config
  /-- `tick_en`: read. -/
  en : Bool
  /-- `tick_cnt`: read and written. -/
  cnt : Nat
  deriving DecidableEq, Repr

/-- The columns of `IR.EDGE` (R32). -/
structure IrColumns where
  cfg : Config
  /-- The decoder's eight registers: read and written. -/
  ir : IrUnit
  /-- `tick_cnt`: read, and cleared. -/
  cnt : Nat
  /-- `tick_en`: written. -/
  tickEn : Option Bool
  /-- `ir_addr` and `ir_cmd`, with `ir_pending` set: written, at a button event. -/
  button : Option (Byte × Byte)
  /-- The drop raised. -/
  dropped : Option Drop
  deriving DecidableEq, Repr

/-- The columns of `DISP.POLL` (R32). -/
structure DispColumns where
  cfg : Config
  /-- `tx_state`: read. -/
  txState : TxState
  /-- `pkt_pending`, `pkt_cmd`, `pkt_len`: read. -/
  pkt : PktBox
  /-- `pkt_ptr`: read (R21). -/
  ptr : Nat
  /-- `rx_buf` at indices 1 to `pkt_len`: read. -/
  payload : Memory
  /-- `ir_pending`, `ir_addr`, `ir_cmd`: read. -/
  irBox : IrBox
  /-- `pkt_pending`: cleared. -/
  packetDone : Bool
  /-- `ir_pending`: cleared. -/
  eventDone : Bool
  /-- A response with this code and payload: `resp_buf` and `resp_len` written, the sender's registers written by
  `TX.START` (R101, R162). -/
  response : Option (Byte × List Byte)
  /-- The driver call made. -/
  call : Option DrvCall
  /-- The drop raised. -/
  dropped : Option Drop
  deriving DecidableEq, Repr

end Sys2Proof.Machine
end

