-- ==== Sys2Proof/Machine/Flags.lean ====
section
/-! DEFINITION. The checksum accumulator (R7, R63) and the one-bit flags (R31) with the controls of the tick source
(R118). The block has no arithmetic condition codes (R31). -/

namespace Sys2Proof.Machine

/-- `chk <- chk ^ b` for a command or payload byte (R86, R103). -/
def chkData (chk b : Byte) : Byte := chk ^^^ b

/-- The same for a length byte, omitted if `CHK_COVERS_LEN = false` (R84, R85, R103). -/
def chkLen (cfg : Config) (chk b : Byte) : Byte := if cfg.chkCoversLen then chk ^^^ b else chk

/-- The exclusive or of a byte sequence (R63). -/
def xorAll : List Byte → Byte
  | [] => 0
  | b :: bs => b ^^^ xorAll bs

/-- The length field of a payload of `n` bytes, `len = n + 1` (R62). -/
def lenField (n : Nat) : Half := BitVec.ofNat 16 (n + 1)

/-- The checksum of a frame (R63): `lenLo ^ lenHi ^ cmd ^ payload`, and with `CHK_COVERS_LEN = false` the length bytes
left out. DEDUCED: R73 and R105 print their `k` with `lo` and `hi` and no condition; the model reads it as the checksum of
R63 under both values of the parameter, which for `false` is not the `k` printed (log entry 24). -/
def frameChecksum (cfg : Config) (c : Byte) (p : List Byte) : Byte :=
  chkLen cfg (chkLen cfg (c ^^^ xorAll p) (halfLo (lenField p.length))) (halfHi (lenField p.length))

/-- The body of a frame: everything after the sync pattern (R61). -/
def frameBody (cfg : Config) (c : Byte) (p : List Byte) : List Byte :=
  halfLo (lenField p.length) :: halfHi (lenField p.length) :: c :: (p ++ [frameChecksum cfg c p])

/-- `encode(c, p)`, the frame as a function (R60, R61, R105; its checksum under `CHK_COVERS_LEN = false`: log entry 24). -/
def wireEncode (cfg : Config) (c : Byte) (p : List Byte) : List Byte := syncPattern ++ frameBody cfg c p

/-- Clear `pkt_pending` (R52, R151). -/
def DispColumns.clearPktPending (c : DispColumns) : DispColumns := { c with packetDone := true }

/-- Clear `ir_pending` (R52, R159). -/
def DispColumns.clearIrPending (c : DispColumns) : DispColumns := { c with eventDone := true }

/-- Tick control "start" (R118). -/
def IrColumns.startTick (c : IrColumns) : IrColumns := { c with tickEn := some true, cnt := 0 }

/-- Tick control "restart" (R118). -/
def IrColumns.restartTick (c : IrColumns) : IrColumns := { c with cnt := 0 }

/-- Tick control "stop" (R118). -/
def IrColumns.stopTick (c : IrColumns) : IrColumns := { c with tickEn := some false, cnt := 0 }

end Sys2Proof.Machine
end

