-- ==== Sys2Proof/Machine/Ops.lean ====
section
/-! DEFINITION. The named operations over the buffers and the registers that the units share: the byte arrays with their
bounds (R40, R43, R45, R46, R49), taking an operation's columns from the state and writing them back (R32), drops (R180,
R193: the block's form of taking an exception; it has no return, R195), the sticky fault mark (R220), outputs (R35),
`TX.START` (R101), raising a button event (R136), the return to `IR_IDLE` (R127) and the answer to a request (R151,
R162). -/

namespace Sys2Proof.Machine

/-- The byte at an index, if one has been written there. -/
def Memory.read : Memory → Nat → Option Byte
  | [], _ => none
  | (a, v) :: m, i => if i = a then some v else Memory.read m i

/-- Store a byte at an index; keeps the indices strictly rising. -/
def Memory.write : Memory → Nat → Byte → Memory
  | [], i, v => [(i, v)]
  | (a, w) :: m, i, v =>
    if i < a then (i, v) :: (a, w) :: m
    else if i = a then (i, v) :: m
    else (a, w) :: Memory.write m i v

/-- Store a byte sequence at rising indices. -/
def Memory.writeAll : Memory → Nat → List Byte → Memory
  | m, _, [] => m
  | m, i, v :: vs => Memory.writeAll (Memory.write m i v) (i + 1) vs

/-- Every listed index is above `a`, and rising. -/
def Memory.risesFrom : Nat → Memory → Bool
  | _, [] => true
  | a, (b, _) :: m => decide (a < b) && Memory.risesFrom b m

/-- The canonical form: indices strictly rising, so that equal contents are equal lists. -/
def Memory.wf : Memory → Bool
  | [] => true
  | (a, _) :: m => Memory.risesFrom a m

/-- The bytes at indices `lo` to `hi`. -/
def Memory.window : Memory → Nat → Nat → Memory
  | [], _, _ => []
  | (a, v) :: m, lo, hi =>
    if lo ≤ a ∧ a ≤ hi then (a, v) :: Memory.window m lo hi else Memory.window m lo hi

/-- An array whose first bytes are these. -/
def Memory.ofBytes (vs : List Byte) : Memory := Memory.writeAll [] 0 vs

/-- What stands at index `i` of RXBUF: the byte written there, else a free one (R211; log entry 10). -/
def Memory.rxByte (m : Memory) (i : Nat) : Byte := (m.read i).getD (Config.unwrittenRx i)

/-- What stands at index `i` of RESPBUF: the byte written there, else a free one (R211; log entry 10). -/
def Memory.respByte (m : Memory) (i : Nat) : Byte := (m.read i).getD (Config.unwrittenResp i)

/-- `MemRead(sp, i, 1)` of an array of `cap` bytes (R43, R45); `v` is what stands at index `i`. -/
def byteAt (sp : Space) (cap i : Nat) (v : Byte) : Except Fault Byte :=
  if i < cap then .ok v else .error (.indexOutOfRange sp i)

/-- The trace with the drop an operation raised (R180). -/
def addDrop (ds : List Drop) : Option Drop → List Drop
  | none => ds
  | some d => ds ++ [d]

/-- The outputs with the one an operation made (R35). -/
def addOutput (os : List Output) : Option Output → List Output
  | none => os
  | some o => os ++ [o]

/-- The columns RX.BYTE takes. -/
def State.rxColumns (s : State) : RxColumns :=
  { cfg := s.cfg, rx := s.rx, first := s.rxBuf.rxByte 0, store := none, packet := none, dropped := none }

/-- `MemWrite(RXBUF, i, 1, v)` (R43), if RX.BYTE stores a byte. -/
def storeByte (m : Memory) : Option (Nat × Byte) → Memory
  | none => m
  | some (i, v) => m.write i v

/-- The packet mailbox after RX.BYTE: filled and its flag set, if a packet was emitted (R88). -/
def fillPacket (p : PktBox) : Option (Byte × Half) → PktBox
  | none => p
  | some (cmd, len) => { pending := true, cmd := cmd, len := len }

/-- The sticky mark after RX.BYTE: `fault HostProtocolViolation` for a data byte stored while a packet is pending
(R86, R183, R220). The receiver itself does not read `pkt_pending` (R58). -/
def State.hostFault (s : State) : Option (Nat × Byte) → Bool
  | none => s.faultSeen
  | some _ => s.faultSeen || s.pkt.pending

/-- The columns RX.BYTE returns, written back. -/
def State.putRx (s : State) (c : RxColumns) : State :=
  { s with rx := c.rx, rxBuf := storeByte s.rxBuf c.store, pkt := fillPacket s.pkt c.packet,
           drops := addDrop s.drops c.dropped, faultSeen := s.hostFault c.store }

/-- The columns TX.BYTE takes. -/
def State.txColumns (s : State) : TxColumns :=
  { cfg := s.cfg, tx := s.tx, respByte := s.respBuf.respByte s.tx.idx.toNat, sent := none }

/-- The columns TX.BYTE returns, written back. -/
def State.putTx (s : State) (c : TxColumns) : State :=
  { s with tx := { s.tx with state := c.tx.state, idx := c.tx.idx, chk := c.tx.chk },
           outputs := addOutput s.outputs (c.sent.map .tx) }

/-- The columns TICK.PULSE takes. -/
def State.tickColumns (s : State) : TickColumns := { cfg := s.cfg, en := s.tick.en, cnt := s.tick.cnt }

/-- The columns TICK.PULSE returns, written back. -/
def State.putTick (s : State) (c : TickColumns) : State := { s with tick.cnt := c.cnt }

/-- The columns IR.EDGE takes. -/
def State.irColumns (s : State) : IrColumns :=
  { cfg := s.cfg, ir := s.ir, cnt := s.tick.cnt, tickEn := none, button := none, dropped := none }

/-- The IR mailbox after IR.EDGE: filled and its flag set, if a button event was raised (R136). -/
def fillButton (b : IrBox) : Option (Byte × Byte) → IrBox
  | none => b
  | some (addr, cmd) => { pending := true, addr := addr, cmd := cmd }

/-- The columns IR.EDGE returns, written back. -/
def State.putIr (s : State) (c : IrColumns) : State :=
  { s with ir := c.ir, tick := { en := c.tickEn.getD s.tick.en, cnt := c.cnt }, irBox := fillButton s.irBox c.button,
           drops := addDrop s.drops c.dropped }

/-- The sender as `TX.START(c, n)` loads it (R101). -/
def TxUnit.start (c n : Byte) : TxUnit := { state := .sync, idx := 0, len := n.setWidth 16 + 1, cmd := c, chk := 0 }

/-- The columns DISP.POLL takes. -/
def State.dispColumns (s : State) : DispColumns :=
  { cfg := s.cfg, txState := s.tx.state, pkt := s.pkt, ptr := s.pktPtr,
    payload := s.rxBuf.window 1 s.pkt.len.toNat, irBox := s.irBox, packetDone := false, eventDone := false,
    response := none, call := none, dropped := none }

/-- The response payload stored at indices 0 up, `resp_len` set, and `TX.START` performed, if DISP.POLL answers (R48,
R151, R158, R159, R162). -/
def State.respond (s : State) : Option (Byte × List Byte) → State
  | none => s
  | some (code, p) =>
    { s with respBuf := s.respBuf.writeAll 0 p, respLen := BitVec.ofNat 8 p.length,
             tx := TxUnit.start code (BitVec.ofNat 8 p.length) }

/-- The columns DISP.POLL returns, written back. -/
def State.putDisp (s : State) (c : DispColumns) : State :=
  { s.respond c.response with
    pkt := { s.pkt with pending := if c.packetDone then false else s.pkt.pending }
    irBox := { s.irBox with pending := if c.eventDone then false else s.irBox.pending }
    outputs := addOutput s.outputs (c.call.map .call)
    drops := addDrop s.drops c.dropped }

/-- Perform one step after another; a stop ends the sequence. -/
def andThen {C D : Type} (r : Answer C) (f : C → Answer D) : Answer D :=
  match r with
  | .next c => f c
  | .fault x => .fault x
  | .refused x => .refused x

/-- Run a step function of RX.BYTE on its columns (R32). -/
def State.runRx (s : State) (f : RxColumns → Answer RxColumns) : Result := andThen (f s.rxColumns) fun c => .next (s.putRx c)

/-- Run a step function of TX.BYTE on its columns (R32). -/
def State.runTx (s : State) (f : TxColumns → Answer TxColumns) : Result := andThen (f s.txColumns) fun c => .next (s.putTx c)

/-- Run the step function of TICK.PULSE on its columns (R32). -/
def State.runTick (s : State) (f : TickColumns → TickColumns) : Result := .next (s.putTick (f s.tickColumns))

/-- Run a step function of IR.EDGE on its columns (R32). -/
def State.runIr (s : State) (f : IrColumns → Answer IrColumns) : Result := andThen (f s.irColumns) fun c => .next (s.putIr c)

/-- Run a step function of DISP.POLL on its columns (R32). -/
def State.runDisp (s : State) (f : DispColumns → Answer DispColumns) : Result :=
  andThen (f s.dispColumns) fun c => .next (s.putDisp c)

/-- `raise Drop.<Cause>` in RX.BYTE (R180, R193). -/
def RxColumns.raise (c : RxColumns) (d : Drop) : RxColumns := { c with dropped := some d }

/-- `raise Drop.<Cause>` in IR.EDGE (R180, R193). -/
def IrColumns.raise (c : IrColumns) (d : Drop) : IrColumns := { c with dropped := some d }

/-- `raise Drop.<Cause>` in DISP.POLL (R180, R193). -/
def DispColumns.raise (c : DispColumns) (d : Drop) : DispColumns := { c with dropped := some d }

/-- `emit tx(b)` (R103). -/
def TxColumns.emit (c : TxColumns) (b : Byte) : TxColumns := { c with sent := some b }

/-- `raise button event (a, k)` (R136). -/
def IrColumns.raiseButton (c : IrColumns) (a k : Byte) : IrColumns := { c with button := some (a, k) }

/-- Clear the frame accumulator (R25, R127, R128). -/
def IrColumns.clearFrame (c : IrColumns) : IrColumns := { c with ir.bitIdx := 0, ir.word := 0, ir.lastMark := false }

/-- `go_idle` (R127). -/
def IrColumns.goIdle (c : IrColumns) : IrColumns := { c.clearFrame.stopTick with ir.phase := .idle }

/-- `call Drv.<name>(args)`: one atomic, completed call (R152). -/
def DispColumns.makeCall (c : DispColumns) (d : DrvCall) : DispColumns := { c with call := some d }

/-- What follows a known command (R151): `pkt_pending <- 0`, then `TX.START(code, resp_len)` with the response payload
`p` (R162). -/
def DispColumns.answer (c : DispColumns) (code : Byte) (p : List Byte) : DispColumns :=
  { c.clearPktPending with response := some (code, p) }

/-- `MemRead(RXBUF, i, 1)` of a payload index (R45, R47). -/
def DispColumns.read (c : DispColumns) (i : Nat) : Except Fault Byte := byteAt .rxbuf c.cfg.rxBufCap i (c.payload.rxByte i)

/-- `MemRead(RXBUF, i, 1)` for `n` indices from `i` up: what a driver reads in place (R152). -/
def DispColumns.readRange (c : DispColumns) : Nat → Nat → Except Fault (List Byte)
  | _, 0 => .ok []
  | i, n + 1 =>
    match c.read i with
    | .error f => .error f
    | .ok v =>
      match c.readRange (i + 1) n with
      | .error f => .error f
      | .ok vs => .ok (v :: vs)

/-- Payload byte `P[i]` of the pending packet: index `pkt_ptr + i` of RXBUF (R47). -/
def DispColumns.payloadByte (c : DispColumns) (i : Nat) : Except Fault Byte := c.read (c.ptr + i)

/-- Payload bytes `P[i .. i + n - 1]` (R47). -/
def DispColumns.payloadBytes (c : DispColumns) (i n : Nat) : Except Fault (List Byte) := c.readRange (c.ptr + i) n

/-- A row that names one case of an operation runs where the state selects that case (log entry 3). -/
def whenSelected {C : Type} (sel : Bool) (r : Answer C) : Answer C := if sel then r else .refused .notSelected

end Sys2Proof.Machine
end

