-- ==== Sys2Proof/Machine/Dispatcher.lean ====
section
/-! DEFINITION. The Command Dispatcher (44_dispatcher.md): the seven command rules, `UNKNOWN_COMMAND` and `DISP.POLL` as
operations on the columns of the poll (R32), and a meaning for each row. `n` is `pkt_len`, `P[i]` the payload byte at
`rx_buf[1 + i]`. -/

namespace Sys2Proof.Machine

/-- A payload shorter than the command needs (R160): no driver call, an empty response. -/
def DispColumns.answerShort (c : DispColumns) (q : Request) : DispColumns := (c.raise .shortPayload).answer q.code []

/-- A driver call was made, the response payload is empty (R154 to R157). -/
def DispColumns.answerCall (c : DispColumns) (q : Request) (d : DrvCall) : DispColumns := (c.makeCall d).answer q.code []

/-- The payload reaches the command's least count (R67). -/
def DispColumns.payloadReaches (c : DispColumns) (q : Request) : Bool := decide (leastPayload q ≤ c.pkt.len.toNat)

/-- NOP (R153): no driver call, an empty response; a payload is ignored. -/
def DispColumns.nop (c : DispColumns) : Answer DispColumns := .next (c.answer Request.nop.code [])

/-- DISPLAY_FLUSH (R154): the driver reads `P[0 .. 1023]` in place. -/
def DispColumns.displayFlush (c : DispColumns) : Answer DispColumns :=
  if c.payloadReaches .displayFlush then
    match c.payloadBytes 0 Config.fbBytes with
    | .ok fb => .next (c.answerCall .displayFlush (.flush fb))
    | .error f => .fault f
  else .next (c.answerShort .displayFlush)

/-- DISPLAY_POWER (R155): 0 is off, every other value on. -/
def DispColumns.displayPower (c : DispColumns) : Answer DispColumns :=
  if c.payloadReaches .displayPower then
    match c.payloadByte 0 with
    | .ok v => .next (c.answerCall .displayPower (if v ≠ 0 then .powerOn else .powerOff))
    | .error f => .fault f
  else .next (c.answerShort .displayPower)

/-- DISPLAY_BRIGHTNESS (R156): the level is passed through. -/
def DispColumns.displayBrightness (c : DispColumns) : Answer DispColumns :=
  if c.payloadReaches .displayBrightness then
    match c.payloadByte 0 with
    | .ok v => .next (c.answerCall .displayBrightness (.setBrightness v))
    | .error f => .fault f
  else .next (c.answerShort .displayBrightness)

/-- BUS_WRITE (R157): address `P[0]`, data `P[1 .. n-1]`, possibly none. -/
def DispColumns.busWrite (c : DispColumns) : Answer DispColumns :=
  if c.payloadReaches .busWrite then
    match c.payloadByte 0 with
    | .ok addr =>
      match c.payloadBytes 1 (c.pkt.len.toNat - 1) with
      | .ok data => .next (c.answerCall .busWrite (.busWrite addr data))
      | .error f => .fault f
    | .error f => .fault f
  else .next (c.answerShort .busWrite)

/-- BUS_READ (R158) with the draw `r`: the first `count` bytes of `r` are what the driver returned; a draw that is too
short is an ill-formed script (U5). -/
def DispColumns.busRead (r : List Byte) (c : DispColumns) : Answer DispColumns :=
  if c.payloadReaches .busRead then
    match c.payloadByte 0 with
    | .ok addr =>
      match c.payloadByte 1 with
      | .ok count =>
        if r.length < count.toNat then .refused .busReadShort
        else .next ((c.makeCall (.busRead addr count)).answer Request.busRead.code (r.take count.toNat))
      | .error f => .fault f
    | .error f => .fault f
  else .next (c.answerShort .busRead)

/-- REMOTE_BUTTON: handling an IR event (R159). -/
def DispColumns.remoteButton (c : DispColumns) : DispColumns :=
  { c.clearIrPending with response := some (remoteButtonCode, [c.irBox.addr, c.irBox.cmd]) }

/-- UNKNOWN_COMMAND (R161): consumed, no call, no response. -/
def DispColumns.unknownCommand (c : DispColumns) : DispColumns := c.clearPktPending.raise .unknownCommand

/-- Handling a packet (R151): the command is `pkt_cmd` (R55). -/
def DispColumns.handlePacket (r : List Byte) (c : DispColumns) : Answer DispColumns :=
  match decodeRequest c.pkt.cmd with
  | some .nop => c.nop
  | some .displayFlush => c.displayFlush
  | some .displayPower => c.displayPower
  | some .displayBrightness => c.displayBrightness
  | some .busWrite => c.busWrite
  | some .busRead => c.busRead r
  | none => .next c.unknownCommand

/-- The step function of DISP.POLL (R150): one packet or one IR event, the packet first. While a frame is being sent the
main loop is blocked and a turn of it changes nothing (R28, R72 `POLL`; log entry 5). -/
def DispColumns.poll (r : List Byte) (c : DispColumns) : Answer DispColumns :=
  if c.txState = .idle then
    if c.pkt.pending then c.handlePacket r
    else if c.irBox.pending then .next c.remoteButton
    else .next c
  else .next c

/-- The selecting condition of a command's row: a poll is enabled, a packet is pending, its code is this one. -/
def DispColumns.packetSelected (c : DispColumns) (q : Option Request) : Bool :=
  c.txState == .idle && c.pkt.pending && decodeRequest c.pkt.cmd == q

/-- `DISP.POLL(r)` (R150). -/
def execDispPoll (r : List Byte) (s : State) : Result := s.runDisp (·.poll r)

/-- `DISP.POLL` on a NOP packet (R153). -/
def execNop (s : State) : Result := s.runDisp fun c => whenSelected (c.packetSelected (some .nop)) c.nop

/-- `DISP.POLL` on a DISPLAY_FLUSH packet (R154). -/
def execDisplayFlush (s : State) : Result :=
  s.runDisp fun c => whenSelected (c.packetSelected (some .displayFlush)) c.displayFlush

/-- `DISP.POLL` on a DISPLAY_POWER packet (R155). -/
def execDisplayPower (s : State) : Result :=
  s.runDisp fun c => whenSelected (c.packetSelected (some .displayPower)) c.displayPower

/-- `DISP.POLL` on a DISPLAY_BRIGHTNESS packet (R156). -/
def execDisplayBrightness (s : State) : Result :=
  s.runDisp fun c => whenSelected (c.packetSelected (some .displayBrightness)) c.displayBrightness

/-- `DISP.POLL` on a BUS_WRITE packet (R157). -/
def execBusWrite (s : State) : Result :=
  s.runDisp fun c => whenSelected (c.packetSelected (some .busWrite)) c.busWrite

/-- `DISP.POLL` on a BUS_READ packet, with the draw (R158). -/
def execBusRead (r : List Byte) (s : State) : Result :=
  s.runDisp fun c => whenSelected (c.packetSelected (some .busRead)) (c.busRead r)

/-- `DISP.POLL` on an IR event, no packet pending (R150, R159). -/
def execRemoteButton (s : State) : Result :=
  s.runDisp fun c => whenSelected (c.txState == .idle && !c.pkt.pending && c.irBox.pending) (.next c.remoteButton)

/-- `DISP.POLL` on a packet whose code `k` is none of the six request codes (R161). -/
def execUnknownCommand (k : Byte) (s : State) : Result :=
  s.runDisp fun c => whenSelected (c.packetSelected none && c.pkt.cmd == k) (.next c.unknownCommand)

end Sys2Proof.Machine
end

