-- ==== Sys2Proof/Machine/Formats.lean ====
section
/-! DEFINITION. The three formats, as the abbreviations of event scripts that R73 makes of them: an abbreviation stands
for a sequence of events, which it puts in front of the events still to come. Reception of a frame is not atomic (R44),
so each event is a step of its own and no register changes here (log entry 8). -/

namespace Sys2Proof.Machine

/-- Put the events of a script in front of those still to come. -/
def State.prepend (s : State) (is : List Instr) : State := { s with events := encodeAll is ++ s.events }

/-- `RXS b0 b1 ... bk` (R73). -/
def rxScript (bs : List Byte) : List Instr := bs.map .rxByte

/-- `TICKS k` (R73). -/
def ticksScript (k : Nat) : List Instr := List.replicate k .tickPulse

/-- `MARK d` (R73): the edge comes first, then the ticks. -/
def markScript (d : Nat) : List Instr := .irEdge .mark :: ticksScript d

/-- `SPACE d` (R73). -/
def spaceScript (d : Nat) : List Instr := .irEdge .space :: ticksScript d

/-- One data bit (R64, R73): a bit mark, then a space whose length is the bit. -/
def bitScript (cfg : Config) (v : Bool) : List Instr :=
  markScript cfg.tBitMark ++ spaceScript (if v then cfg.tOneSpace else cfg.tZeroSpace)

/-- The data bits of a word from bit `n - 1` down to bit 0 (R42, R73). -/
def wordScript (cfg : Config) (w : Word) : Nat → List Instr
  | 0 => []
  | n + 1 => bitScript cfg (w.getLsbD n) ++ wordScript cfg w n

/-- `IRWORD(w)` (R64, R73); `IRFRAME(a, c)` is `IRWORD` of `irWordFor a c`. -/
def irWordScript (cfg : Config) (w : Word) : List Instr :=
  markScript cfg.tLeadMark ++ spaceScript cfg.tLeadSpace ++ wordScript cfg w Config.irBits ++
    markScript cfg.tBitMark ++ [.irEdge .space]

/-- The repeat code with a closing mark of `d` ticks (R64: `MARK(any)`); `IRREPEAT` of R73 has `d = T_BIT_MARK`. -/
def irRepeatScript (cfg : Config) (d : Nat) : List Instr :=
  markScript cfg.tLeadMark ++ spaceScript cfg.tRepeatSpace ++ markScript d ++ [.irEdge .space]

/-- How many transfers the sender still has to make: the rest of the sync pattern, two length bytes, the command, `n`
payload bytes with `tx_len = n + 1`, the checksum (R61, R103). -/
def TxUnit.bytesLeft (u : TxUnit) : Nat :=
  match u.state with
  | .idle => 0
  | .sync => 4 - u.idx.toNat + 3 + (u.len.toNat - 1) + 1
  | .lenLo => 3 + (u.len.toNat - 1) + 1
  | .lenHi => 2 + (u.len.toNat - 1) + 1
  | .cmd => 1 + (u.len.toNat - 1) + 1
  | .payload => u.len.toNat - 1 - u.idx.toNat + 1
  | .chk => 1

/-- `DRAIN` (R73): `TXRDY` repeated until `tx_state == TX_IDLE`, for the sender as it stands (log entry 8). -/
def drainScript (u : TxUnit) : List Instr := List.replicate u.bytesLeft .txByte

/-- `WIRE_FRAME`, `FRAME(c, p)` (R60, R73): requires at most 65534 payload bytes. -/
def execWireFrame (c : Byte) (p : List Byte) (s : State) : Result :=
  if p.length ≤ Config.txMaxPayload then .next (s.prepend (rxScript (wireEncode s.cfg c p)))
  else .refused .payloadTooLong

/-- `IR_FRAME`, `IRWORD(w)` (R64, R73). -/
def execIrFrame (w : Word) (s : State) : Result := .next (s.prepend (irWordScript s.cfg w))

/-- `IR_REPEAT` (R64, R73); `IRREPEAT` is the case `d = T_BIT_MARK`. -/
def execIrRepeat (d : Nat) (s : State) : Result := .next (s.prepend (irRepeatScript s.cfg d))

end Sys2Proof.Machine
end

