-- ==== Sys2Proof/Machine/Infrared.lean ====
section
/-! DEFINITION. The IR Decoder (43_ir_decoder.md): the rules of `IR.EDGE` as operations on its columns (R32), the
operation itself, and a meaning for each of its rows. `l` is the new line state, `d` the measured duration in ticks
(R120). -/

namespace Sys2Proof.Machine

/-- What every edge does first (R127): `ir_level <- l`, `tick_cnt <- 0`. -/
def IrColumns.prologue (c : IrColumns) (l : Level) : IrColumns := { c.restartTick with ir.level := l }

/-- Abort (R135): `raise Drop.IrTiming ; go_idle`. -/
def IrColumns.abort (c : IrColumns) : IrColumns := (c.raise .irTiming).goIdle

/-- Finish: the validity rule (R133). -/
def IrColumns.finish (c : IrColumns) : IrColumns :=
  if complementsMatch c.ir.word then
    ({ c with ir.lastAddr := irAddrOf c.ir.word, ir.lastCmd := irCmdOf c.ir.word, ir.lastValid := true }.raiseButton
      (irAddrOf c.ir.word) (irCmdOf c.ir.word)).goIdle
  else (c.raise .irComplement).goIdle

/-- Repeat code (R134). -/
def IrColumns.repeatCode (c : IrColumns) : IrColumns :=
  if c.ir.lastValid then (c.raiseButton c.ir.lastAddr c.ir.lastCmd).goIdle else (c.raise .irRepeatNoFrame).goIdle

/-- `IR_IDLE` (R128): an edge to `MARK` begins a decode attempt; an edge to `SPACE` does nothing. -/
def IrColumns.idle (c : IrColumns) (l : Level) : IrColumns :=
  match l with
  | .mark => { c.startTick.clearFrame with ir.phase := .leadMark }
  | .space => c

/-- `IR_LEAD_MARK` (R129). -/
def IrColumns.leadMark (c : IrColumns) (l : Level) (d : Nat) : IrColumns :=
  if l = .space ∧ inwin d c.cfg.tLeadMark = true then { c with ir.phase := .leadSpace } else c.abort

/-- `IR_LEAD_SPACE` (R130): direction before duration, new frame before repeat (R126, R192). -/
def IrColumns.leadSpace (c : IrColumns) (l : Level) (d : Nat) : IrColumns :=
  if l ≠ .mark then c.abort
  else if inwin d c.cfg.tLeadSpace then { c with ir.phase := .bitMark }
  else if inwin d c.cfg.tRepeatSpace then c.repeatCode
  else c.abort

/-- `IR_BIT_MARK` (R132). -/
def IrColumns.bitMark (c : IrColumns) (l : Level) (d : Nat) : IrColumns :=
  if l ≠ .space ∨ inwin d c.cfg.tBitMark = false then c.abort
  else if c.ir.lastMark then c.finish
  else { c with ir.phase := .bitSpace }

/-- Shift a data bit in (R131). -/
def IrColumns.takeBit (c : IrColumns) (v : Bool) : IrColumns :=
  { c with ir.word := shiftInBit c.ir.word v, ir.bitIdx := c.ir.bitIdx + 1,
           ir.lastMark := if c.ir.bitIdx.toNat + 1 = Config.irBits then true else c.ir.lastMark,
           ir.phase := .bitMark }

/-- `IR_BIT_SPACE` (R131): zero before one (R126). -/
def IrColumns.bitSpace (c : IrColumns) (l : Level) (d : Nat) : IrColumns :=
  if l ≠ .mark then c.abort
  else if inwin d c.cfg.tZeroSpace then c.takeBit false
  else if inwin d c.cfg.tOneSpace then c.takeBit true
  else c.abort

/-- The phase rule selected by `ir_phase` (R127). -/
def IrColumns.phaseRule (c : IrColumns) (l : Level) (d : Nat) : IrColumns :=
  match c.ir.phase with
  | .idle => c.idle l
  | .leadMark => c.leadMark l d
  | .leadSpace => c.leadSpace l d
  | .bitMark => c.bitMark l d
  | .bitSpace => c.bitSpace l d

/-- The condition under which the edge that ends an interval of `d` ticks aborts the attempt (R126, R135, R137). -/
def IrColumns.aborts (c : IrColumns) (l : Level) (d : Nat) : Bool :=
  match c.ir.phase with
  | .idle => false
  | .leadMark => !(l == .space && inwin d c.cfg.tLeadMark)
  | .leadSpace => !(l == .mark && (inwin d c.cfg.tLeadSpace || inwin d c.cfg.tRepeatSpace))
  | .bitMark => !(l == .space && inwin d c.cfg.tBitMark)
  | .bitSpace => !(l == .mark && (inwin d c.cfg.tZeroSpace || inwin d c.cfg.tOneSpace))

/-- `IR.EDGE(l)` is enabled when `l != ir_level` (R14, R127). -/
def IrColumns.enabled (c : IrColumns) (l : Level) : Bool := l != c.ir.level

/-- The step function of IR.EDGE (R127); `d` is taken before the counter is cleared. An edge to the present line state
is no edge (R14, R72, U6): refused (log entry 6). -/
def IrColumns.edge (l : Level) (c : IrColumns) : Answer IrColumns :=
  if c.enabled l then .next ((c.prologue l).phaseRule l c.cnt) else .refused .edgeNotEnabled

/-- The selecting condition of a phase's row: an enabled edge in that phase. -/
def IrColumns.selected (c : IrColumns) (p : IrPhase) (l : Level) : Bool := c.enabled l && c.ir.phase == p

/-- `IR.EDGE(l)` (R127). -/
def execIrEdge (l : Level) (s : State) : Result := s.runIr (·.edge l)

/-- `IR.EDGE` in `IR_IDLE` (R128). -/
def execIrIdle (l : Level) (s : State) : Result :=
  s.runIr fun c => whenSelected (c.selected .idle l) (.next ((c.prologue l).idle l))

/-- `IR.EDGE` in `IR_LEAD_MARK` (R129). -/
def execIrLeadMark (l : Level) (s : State) : Result :=
  s.runIr fun c => whenSelected (c.selected .leadMark l) (.next ((c.prologue l).leadMark l c.cnt))

/-- `IR.EDGE` in `IR_LEAD_SPACE` (R130). -/
def execIrLeadSpace (l : Level) (s : State) : Result :=
  s.runIr fun c => whenSelected (c.selected .leadSpace l) (.next ((c.prologue l).leadSpace l c.cnt))

/-- `IR.EDGE` in `IR_BIT_MARK` (R132). -/
def execIrBitMark (l : Level) (s : State) : Result :=
  s.runIr fun c => whenSelected (c.selected .bitMark l) (.next ((c.prologue l).bitMark l c.cnt))

/-- `IR.EDGE` in `IR_BIT_SPACE` (R131). -/
def execIrBitSpace (l : Level) (s : State) : Result :=
  s.runIr fun c => whenSelected (c.selected .bitSpace l) (.next ((c.prologue l).bitSpace l c.cnt))

/-- `IR.EDGE` that ends a good final mark (R132, R133). -/
def execIrFinish (l : Level) (s : State) : Result :=
  s.runIr fun c => whenSelected (c.selected .bitMark l && l == .space && inwin c.cnt c.cfg.tBitMark && c.ir.lastMark)
    (.next (c.prologue l).finish)

/-- `IR.EDGE` that ends a repeat space (R130, R134): in the repeat window and not in the new-frame window. -/
def execIrRepeatCode (l : Level) (s : State) : Result :=
  s.runIr fun c => whenSelected (c.selected .leadSpace l && l == .mark && !inwin c.cnt c.cfg.tLeadSpace &&
    inwin c.cnt c.cfg.tRepeatSpace) (.next (c.prologue l).repeatCode)

/-- `IR.EDGE` that aborts the decode attempt (R135): a duration outside its window or an edge of the wrong
direction. -/
def execIrAbort (l : Level) (s : State) : Result :=
  s.runIr fun c => whenSelected (c.enabled l && c.aborts l c.cnt) (.next (c.prologue l).abort)

/-- Raising a button event `(a, k)` (R136), performed inside `IR.EDGE` by finish and repeat: writes the IR mailbox only
(log entry 4). -/
def execIrRaiseEvent (a k : Byte) (s : State) : Result := s.runIr fun c => .next (c.raiseButton a k)

end Sys2Proof.Machine
end

