-- ==== Sys2Proof/Machine/Receiver.lean ====
section
/-! DEFINITION. The Frame Receiver (40_frame_receiver.md): the rules of `RX.BYTE` as operations on its columns (R32),
the operation itself, and a meaning for each of its rows. -/

namespace Sys2Proof.Machine

/-- `m := (b == SYNC[sync_cnt])` (R80, R81). -/
def RxColumns.syncMatches (c : RxColumns) (b : Byte) : Bool := b == syncByte c.rx.syncCnt

/-- The condition of the sync override (R82): the fourth match. -/
def RxColumns.isOverride (c : RxColumns) (b : Byte) : Bool := c.syncMatches b && c.rx.syncCnt == 3

/-- The sync matcher, non-completing step (R81): advance on a match, else 0; no second comparison (D6). -/
def RxColumns.syncStep (c : RxColumns) (b : Byte) : RxColumns :=
  { c with rx.syncCnt := if c.syncMatches b then c.rx.syncCnt + 1 else 0 }

/-- The register writes of the sync override (R82). -/
def RxColumns.overrideRegs (c : RxColumns) : RxColumns := { c with rx.syncCnt := 0, rx.chk := 0, rx.state := .lengthLow }

/-- The sync override (R82): the one forced transfer (R194); a frame in progress is dropped. -/
def RxColumns.syncOverride (c : RxColumns) : RxColumns :=
  if c.rx.state = .scanningSync then c.overrideRegs else c.overrideRegs.raise .resync

/-- `LengthLow` (R84). -/
def RxColumns.lengthLow (c : RxColumns) (b : Byte) : RxColumns :=
  { c with rx.len := b.setWidth 16, rx.chk := chkLen c.cfg c.rx.chk b, rx.state := .lengthHigh }

/-- `L = {b, rx_len[7:0]}` (R85). -/
def RxColumns.decodedLen (c : RxColumns) (b : Byte) : Half := halfOf (halfLo c.rx.len) b

/-- The writes `LengthHigh` makes whatever the length is (R85). -/
def RxColumns.takeLenHi (c : RxColumns) (b : Byte) : RxColumns :=
  { c with rx.len := c.decodedLen b, rx.chk := chkLen c.cfg c.rx.chk b }

/-- `LengthHigh` (R85): zero length is tested before oversize (R192); a refused length stores no byte. -/
def RxColumns.lengthHigh (c : RxColumns) (b : Byte) : RxColumns :=
  if c.decodedLen b = 0 then { c.takeLenHi b with rx.state := .scanningSync }.raise .zeroLength
  else if c.cfg.rxBufCap < (c.decodedLen b).toNat then { c.takeLenHi b with rx.state := .scanningSync }.raise .oversize
  else { c.takeLenHi b with rx.off := 0, rx.state := .readingData }

/-- The writes of `ReadingData` (R86). -/
def RxColumns.takeData (c : RxColumns) (b : Byte) : RxColumns :=
  { c with store := some (c.rx.off.toNat, b), rx.chk := chkData c.rx.chk b, rx.off := c.rx.off + 1,
           rx.state := if c.rx.off.toNat + 1 = c.rx.len.toNat then .readingChecksum else c.rx.state }

/-- `ReadingData` (R86); an index outside RXBUF is a fault (R45). -/
def RxColumns.readingData (c : RxColumns) (b : Byte) : Answer RxColumns :=
  if c.rx.off.toNat < c.cfg.rxBufCap then .next (c.takeData b) else .fault (.indexOutOfRange .rxbuf c.rx.off.toNat)

/-- Packet emission (R88). -/
def RxColumns.emitPacket (c : RxColumns) : Answer RxColumns :=
  match byteAt .rxbuf c.cfg.rxBufCap 0 c.first with
  | .ok cmd => .next { c with packet := some (cmd, BitVec.ofNat 16 (c.rx.len.toNat - 1)) }
  | .error f => .fault f

/-- `ReadingChecksum` (R87): in both cases the state returns to `ScanningSync`. -/
def RxColumns.readingChecksum (c : RxColumns) (b : Byte) : Answer RxColumns :=
  if b = c.rx.chk then andThen c.emitPacket fun c' => .next { c' with rx.state := .scanningSync }
  else .next ({ c with rx.state := .scanningSync }.raise .checksum)

/-- The framing state's rule (R80, R83 to R87). -/
def RxColumns.frame (c : RxColumns) (b : Byte) : Answer RxColumns :=
  match c.rx.state with
  | .scanningSync => .next c
  | .lengthLow => .next (c.lengthLow b)
  | .lengthHigh => .next (c.lengthHigh b)
  | .readingData => c.readingData b
  | .readingChecksum => c.readingChecksum b

/-- The step function of RX.BYTE (R80): the override is tested first. -/
def RxColumns.receive (b : Byte) (c : RxColumns) : Answer RxColumns :=
  if c.isOverride b then .next c.syncOverride else (c.syncStep b).frame b

/-- The selecting condition of a framing state's row: that state, and no override (R96, R192). -/
def RxColumns.selected (c : RxColumns) (q : RxState) (b : Byte) : Bool := c.rx.state == q && !c.isOverride b

/-- `scan(k, bs)` (R90): whether a fourth match occurs at any byte of `bs` when the matcher starts at `k`, and the
final counter. -/
def scan : BitVec 2 → List Byte → Bool × BitVec 2
  | k, [] => (false, k)
  | k, b :: bs =>
    if b = syncByte k ∧ k = 3 then (true, (scan 0 bs).2)
    else scan (if b = syncByte k then k + 1 else 0) bs

/-- `RX.BYTE(b)` (R80): always enabled. -/
def execRxByte (b : Byte) (s : State) : Result := s.runRx (·.receive b)

/-- `RX.BYTE` where the byte completes the sync pattern (R82). -/
def execRxSyncOverride (b : Byte) (s : State) : Result :=
  s.runRx fun c => whenSelected (c.isOverride b) (.next c.syncOverride)

/-- The sync matcher's step for a byte that is not the override (R81): writes `sync_cnt` only (log entry 4). -/
def execRxSyncMatchStep (b : Byte) (s : State) : Result :=
  s.runRx fun c => whenSelected (!c.isOverride b) (.next (c.syncStep b))

/-- `RX.BYTE` in `ScanningSync` (R83): only the sync matcher sees the byte. -/
def execRxScanningSync (b : Byte) (s : State) : Result :=
  s.runRx fun c => whenSelected (c.selected .scanningSync b) (.next (c.syncStep b))

/-- `RX.BYTE` in `LengthLow` (R84). -/
def execRxLengthLow (b : Byte) (s : State) : Result :=
  s.runRx fun c => whenSelected (c.selected .lengthLow b) (.next ((c.syncStep b).lengthLow b))

/-- `RX.BYTE` in `LengthHigh` (R85). -/
def execRxLengthHigh (b : Byte) (s : State) : Result :=
  s.runRx fun c => whenSelected (c.selected .lengthHigh b) (.next ((c.syncStep b).lengthHigh b))

/-- `RX.BYTE` in `ReadingData` (R86). -/
def execRxReadingData (b : Byte) (s : State) : Result :=
  s.runRx fun c => whenSelected (c.selected .readingData b) ((c.syncStep b).readingData b)

/-- `RX.BYTE` in `ReadingChecksum` (R87). -/
def execRxReadingChecksum (b : Byte) (s : State) : Result :=
  s.runRx fun c => whenSelected (c.selected .readingChecksum b) ((c.syncStep b).readingChecksum b)

/-- Packet emission (R88), performed inside `RX.BYTE` in `ReadingChecksum` on a match: writes the packet mailbox only
(log entry 4). -/
def execRxEmitPacket (b : Byte) (s : State) : Result :=
  s.runRx fun c => whenSelected (c.selected .readingChecksum b && b == c.rx.chk) c.emitPacket

end Sys2Proof.Machine
end

