-- ==== Sys2Proof/Machine/Reset.lean ====
section
/-! DEFINITION. `RESET` (70_reset_and_hazards.md rules R210 to R212). -/

namespace Sys2Proof.Machine

/-- The register writes of R210: every scalar register takes its reset value; the two arrays are unchanged by a later
reset; the fault mark is cleared (R220). The configuration (constant, R5), the events still to come and the record of
outputs and drops are the model's and stay (log entry 13). -/
def State.resetRegs (s : State) : State :=
  { rx := { state := .scanningSync, syncCnt := 0, len := 0, off := 0, chk := 0 }
    pkt := { pending := false, cmd := 0, len := 0 }
    tx := { state := .idle, idx := 0, len := 0, cmd := 0, chk := 0 }
    tick := { en := false, cnt := 0 }
    ir := { level := .space, phase := .idle, bitIdx := 0, word := 0, lastMark := false, lastValid := false,
            lastAddr := 0, lastCmd := 0 }
    irBox := { pending := false, addr := 0, cmd := 0 }
    rxBuf := s.rxBuf
    respBuf := s.respBuf
    respLen := 0
    cfg := s.cfg
    events := s.events
    outputs := s.outputs
    drops := s.drops
    faultSeen := false }

/-- The state after power-up with arbitrary bytes in the two arrays, which R211 makes a parameter of the initial state
(U2, D30): the byte at index `i` of RXBUF is `rx[i]`, of RESPBUF `resp[i]`, and past the end of a list
the byte is free. `State.reset` is the case of free bytes everywhere (log entry 10). -/
def State.powerUp (rx resp : List Byte) : State :=
  { State.reset with rxBuf := Memory.ofBytes rx, respBuf := Memory.ofBytes resp }

/-- `RESET` (R210): always enabled. -/
def execReset (s : State) : Result := .next s.resetRegs

end Sys2Proof.Machine
end

