-- ==== Sys2Proof/Machine/Sender.lean ====
section
/-! DEFINITION. The Frame Sender (41_frame_sender.md): `TX.START`, `TX.BYTE` as an operation on its columns (R32), and a
meaning for each state of `TX.BYTE`. -/

namespace Sys2Proof.Machine

/-- `TX_SYNC` (R103): `emit tx(SYNC[tx_idx])`, not XORed. -/
def TxColumns.sync (c : TxColumns) : Answer TxColumns :=
  match syncPattern[c.tx.idx.toNat]? with
  | none => .fault (.reservedSyncIndex c.tx.idx.toNat)
  | some b =>
    if c.tx.idx = 3 then .next ({ c with tx.idx := 0, tx.state := .lenLo }.emit b)
    else .next ({ c with tx.idx := c.tx.idx + 1 }.emit b)

/-- `TX_LENLO` (R103). -/
def TxColumns.lenLo (c : TxColumns) : TxColumns :=
  { c with tx.chk := chkLen c.cfg c.tx.chk (halfLo c.tx.len), tx.state := .lenHi }.emit (halfLo c.tx.len)

/-- `TX_LENHI` (R103). -/
def TxColumns.lenHi (c : TxColumns) : TxColumns :=
  { c with tx.chk := chkLen c.cfg c.tx.chk (halfHi c.tx.len), tx.state := .cmd }.emit (halfHi c.tx.len)

/-- `TX_CMD` (R103): an empty payload goes straight to `TX_CHK`. -/
def TxColumns.command (c : TxColumns) : TxColumns :=
  { c with tx.chk := chkData c.tx.chk c.tx.cmd, tx.idx := 0,
           tx.state := if c.tx.len = 1 then .chk else .payload }.emit c.tx.cmd

/-- `TX_PAYLOAD` (R103): the byte is read from `resp_buf` as it is sent. -/
def TxColumns.payload (c : TxColumns) : Answer TxColumns :=
  match byteAt .respbuf Config.respBufCap c.tx.idx.toNat c.respByte with
  | .error f => .fault f
  | .ok b =>
    if c.tx.idx.toNat + 2 = c.tx.len.toNat then
      .next ({ c with tx.chk := chkData c.tx.chk b, tx.state := .chk }.emit b)
    else .next ({ c with tx.chk := chkData c.tx.chk b, tx.idx := c.tx.idx + 1 }.emit b)

/-- `TX_CHK` (R103): the checksum byte is the accumulated value. -/
def TxColumns.checksum (c : TxColumns) : TxColumns := { c with tx.state := .idle }.emit c.tx.chk

/-- The step function of TX.BYTE (R103). With nothing to send (`TX_IDLE`) a ready port takes nothing and nothing
changes (R12, R72 `TXRDY`; log entry 5). -/
def TxColumns.transfer (c : TxColumns) : Answer TxColumns :=
  match c.tx.state with
  | .idle => .next c
  | .sync => c.sync
  | .lenLo => .next c.lenLo
  | .lenHi => .next c.lenHi
  | .cmd => .next c.command
  | .payload => c.payload
  | .chk => .next c.checksum

/-- `TX.BYTE` (R103), the transmit port taking a byte. -/
def execTxByte (s : State) : Result := s.runTx (·.transfer)

/-- `TX.START(c, n)` (R101): enabled in `TX_IDLE` for at most 255 bytes (U8); it reads nothing, so `resp_len` is not
asked (log entry 7). -/
def execTxStart (c : Byte) (n : Half) (s : State) : Result :=
  if s.tx.state = .idle ∧ n.toNat ≤ Config.respBufCap then .next { s with tx := TxUnit.start c (n.setWidth 8) }
  else .refused .txStartNotEnabled

/-- `TX.BYTE` in `TX_SYNC` (R103). -/
def execTxSync (s : State) : Result := s.runTx fun c => whenSelected (c.tx.state == .sync) c.sync

/-- `TX.BYTE` in `TX_LENLO` (R103). -/
def execTxLenLo (s : State) : Result := s.runTx fun c => whenSelected (c.tx.state == .lenLo) (.next c.lenLo)

/-- `TX.BYTE` in `TX_LENHI` (R103). -/
def execTxLenHi (s : State) : Result := s.runTx fun c => whenSelected (c.tx.state == .lenHi) (.next c.lenHi)

/-- `TX.BYTE` in `TX_CMD` (R103). -/
def execTxCmd (s : State) : Result := s.runTx fun c => whenSelected (c.tx.state == .cmd) (.next c.command)

/-- `TX.BYTE` in `TX_PAYLOAD` (R103). -/
def execTxPayload (s : State) : Result := s.runTx fun c => whenSelected (c.tx.state == .payload) c.payload

/-- `TX.BYTE` in `TX_CHK` (R103). -/
def execTxChk (s : State) : Result := s.runTx fun c => whenSelected (c.tx.state == .chk) (.next c.checksum)

end Sys2Proof.Machine
end

