-- ==== Sys2Proof/Machine/Tick.lean ====
section
/-! DEFINITION. The Tick Source (42_tick_source.md). -/

namespace Sys2Proof.Machine

/-- The largest value of `tick_cnt`, `2^TICK_W - 1` (R117). -/
abbrev tickMax (cfg : Config) : Nat := 2 ^ cfg.tickW - 1

/-- The step function of TICK.PULSE (R117): counts while enabled, saturates. -/
def TickColumns.pulse (c : TickColumns) : TickColumns :=
  if c.en = true ∧ c.cnt < tickMax c.cfg then { c with cnt := c.cnt + 1 } else c

/-- `TICK.PULSE` (R117). -/
def execTickPulse (s : State) : Result := s.runTick (·.pulse)

end Sys2Proof.Machine
end

