-- ==== Sys2Proof/Machine/Dispatch.lean ====
section
/-! DEFINITION. The dispatch: one arm per constructor of Instr, each one direct call of its meaning. -/

namespace Sys2Proof.Machine

def exec (i : Instr) (s : State) : Host.Outcome State Fault Refusal :=
  match i with
  | .nop => Sys2Proof.Machine.execNop s
  | .displayFlush => Sys2Proof.Machine.execDisplayFlush s
  | .displayPower => Sys2Proof.Machine.execDisplayPower s
  | .displayBrightness => Sys2Proof.Machine.execDisplayBrightness s
  | .busWrite => Sys2Proof.Machine.execBusWrite s
  | .busRead r => Sys2Proof.Machine.execBusRead r s
  | .remoteButton => Sys2Proof.Machine.execRemoteButton s
  | .unknownCommand c => Sys2Proof.Machine.execUnknownCommand c s
  | .reset => Sys2Proof.Machine.execReset s
  | .rxByte b => Sys2Proof.Machine.execRxByte b s
  | .txByte => Sys2Proof.Machine.execTxByte s
  | .tickPulse => Sys2Proof.Machine.execTickPulse s
  | .irEdge l => Sys2Proof.Machine.execIrEdge l s
  | .dispPoll r => Sys2Proof.Machine.execDispPoll r s
  | .txStart c n => Sys2Proof.Machine.execTxStart c n s
  | .rxSyncOverride b => Sys2Proof.Machine.execRxSyncOverride b s
  | .rxSyncMatchStep b => Sys2Proof.Machine.execRxSyncMatchStep b s
  | .rxScanningSync b => Sys2Proof.Machine.execRxScanningSync b s
  | .rxLengthLow b => Sys2Proof.Machine.execRxLengthLow b s
  | .rxLengthHigh b => Sys2Proof.Machine.execRxLengthHigh b s
  | .rxReadingData b => Sys2Proof.Machine.execRxReadingData b s
  | .rxReadingChecksum b => Sys2Proof.Machine.execRxReadingChecksum b s
  | .rxEmitPacket b => Sys2Proof.Machine.execRxEmitPacket b s
  | .txSync => Sys2Proof.Machine.execTxSync s
  | .txLenLo => Sys2Proof.Machine.execTxLenLo s
  | .txLenHi => Sys2Proof.Machine.execTxLenHi s
  | .txCmd => Sys2Proof.Machine.execTxCmd s
  | .txPayload => Sys2Proof.Machine.execTxPayload s
  | .txChk => Sys2Proof.Machine.execTxChk s
  | .irIdle l => Sys2Proof.Machine.execIrIdle l s
  | .irLeadMark l => Sys2Proof.Machine.execIrLeadMark l s
  | .irLeadSpace l => Sys2Proof.Machine.execIrLeadSpace l s
  | .irBitMark l => Sys2Proof.Machine.execIrBitMark l s
  | .irBitSpace l => Sys2Proof.Machine.execIrBitSpace l s
  | .irFinish l => Sys2Proof.Machine.execIrFinish l s
  | .irRepeatCode l => Sys2Proof.Machine.execIrRepeatCode l s
  | .irAbort l => Sys2Proof.Machine.execIrAbort l s
  | .irRaiseEvent a c => Sys2Proof.Machine.execIrRaiseEvent a c s
  | .wireFrame c p => Sys2Proof.Machine.execWireFrame c p s
  | .irFrame w => Sys2Proof.Machine.execIrFrame w s
  | .irRepeat d => Sys2Proof.Machine.execIrRepeat d s

end Sys2Proof.Machine
end

