-- ==== Sys2Proof/Machine/Events.lean ====
section
/-! DEFINITION. The model's event stream (log entries 1 and 17): taking the next event from it, and placing one
instruction so that the next step runs it. -/

namespace Sys2Proof.Machine

/-- The next event: none while the environment offers nothing; else the instruction at the front of the stream and the
state with its bytes taken, or why the bytes are no instruction. -/
def State.fetch (s : State) : Option (Except DecodeError (Instr × State)) :=
  match s.events with
  | [] => none
  | b :: bs =>
    match decode (b :: bs) with
    | .ok (i, rest) => some (.ok (i, { s with events := rest }))
    | .error e => some (.error e)

/-- The other line state. -/
def otherLevel : Level → Level
  | .space => .mark
  | .mark => .space

/-- The main loop is free, and a packet of this code is pending (what selects a command, R150, R151). -/
def State.selectPacket (s : State) (c : Byte) : State :=
  { s with tx.state := .idle, pkt.pending := true, pkt.cmd := c }

/-- The receiver is in this state, with no sync byte matched (what selects a case of `RX.BYTE`, R96). -/
def State.selectRx (s : State) (q : RxState) : State := { s with rx.state := q, rx.syncCnt := 0 }

/-- The receiver awaits the checksum of a frame of one byte, command 0 (a frame has at least its command byte in
`rx_buf`, R34 item 4, R46). -/
def State.selectFrame (s : State) : State :=
  { s.selectRx .readingChecksum with rx.len := 1, rx.off := 1, rxBuf := s.rxBuf.write 0 0 }

/-- The sender is in this state (what selects a case of `TX.BYTE`, R103). -/
def State.selectTx (s : State) (q : TxState) : State := { s with tx.state := q }

/-- The sender is about to send the one byte, 0, of a response (in `TX_PAYLOAD` a payload byte stands in `resp_buf`,
R34 item 9, R46). -/
def State.selectPayload (s : State) : State :=
  { s.selectTx .payload with tx.idx := 0, tx.len := 2, respLen := 1, respBuf := s.respBuf.write 0 0 }

/-- The line is at the other level, so that `l` is an edge (R14), and the decoder is in this phase (R137). -/
def State.selectIr (s : State) (p : IrPhase) (l : Level) : State :=
  { s with ir.level := otherLevel l, ir.phase := p }

/-- The register values that select an instruction, beside the event itself: the block has no program counter, its
state registers say which case an event runs (R30). Nothing else changes (log entry 17). -/
def State.selectFor (s : State) : Instr → State
  | .nop => s.selectPacket Request.nop.code
  | .displayFlush => s.selectPacket Request.displayFlush.code
  | .displayPower => s.selectPacket Request.displayPower.code
  | .displayBrightness => s.selectPacket Request.displayBrightness.code
  | .busWrite => s.selectPacket Request.busWrite.code
  | .busRead _ => s.selectPacket Request.busRead.code
  | .remoteButton => { s with tx.state := .idle, pkt.pending := false, irBox.pending := true }
  | .unknownCommand c => s.selectPacket c
  | .reset => s
  | .rxByte _ => s
  | .txByte => s
  | .tickPulse => s
  | .irEdge l => { s with ir.level := otherLevel l }
  | .dispPoll _ => s
  | .txStart _ _ => { s with tx.state := .idle }
  | .rxSyncOverride _ => { s with rx.syncCnt := 3 }
  | .rxSyncMatchStep _ => { s with rx.syncCnt := 0 }
  | .rxScanningSync _ => s.selectRx .scanningSync
  | .rxLengthLow _ => s.selectRx .lengthLow
  | .rxLengthHigh _ => s.selectRx .lengthHigh
  | .rxReadingData _ => s.selectRx .readingData
  | .rxReadingChecksum _ => s.selectFrame
  | .rxEmitPacket b => { s.selectFrame with rx.chk := b }
  | .txSync => s.selectTx .sync
  | .txLenLo => s.selectTx .lenLo
  | .txLenHi => s.selectTx .lenHi
  | .txCmd => s.selectTx .cmd
  | .txPayload => s.selectPayload
  | .txChk => s.selectTx .chk
  | .irIdle l => s.selectIr .idle l
  | .irLeadMark l => s.selectIr .leadMark l
  | .irLeadSpace l => s.selectIr .leadSpace l
  | .irBitMark l => s.selectIr .bitMark l
  | .irBitSpace l => s.selectIr .bitSpace l
  | .irFinish l => { s.selectIr .bitMark l with ir.lastMark := true, tick.cnt := s.cfg.tBitMark }
  | .irRepeatCode l => { s.selectIr .leadSpace l with tick.cnt := s.cfg.tRepeatSpace }
  | .irAbort l => { s.selectIr .leadMark l with tick.cnt := 0 }
  | .irRaiseEvent _ _ => s
  | .wireFrame _ _ => s
  | .irFrame _ => s
  | .irRepeat _ => s

/-- Place the instruction of a table word in front of the events still to come, with the registers that select it. -/
def State.offerWord (s : State) (nbits w : Nat) : State :=
  match decode (tableBytes nbits w) with
  | .ok (i, rest) =>
    { s.selectFor i with
      events := (tableBytes nbits w).take ((tableBytes nbits w).length - rest.length) ++ s.events }
  | .error _ => { s with events := tableBytes nbits w ++ s.events }

end Sys2Proof.Machine
end

