-- ==== Sys2Proof/Machine/Ports.lean ====
section
/-! DEFINITION. The ports (10_state.md rules R11 to R15) and one clock cycle: the events that coincide in a cycle, in
the fixed order of 60_exceptions.md rule R191. The step of the model takes one event at a time (R6); this file says
which events a cycle's pins carry. -/

namespace Sys2Proof.Machine

/-- The input pins of one clock cycle. `poll` is the turn of the main loop that falls in the cycle, if any, with the
bytes a bus read would return (R150, R184). -/
structure Pins where
  /-- `rst` (R11). -/
  rst : Bool
  /-- `rx_valid` with `rx_data` (R12). -/
  rx : Option Byte
  /-- `tx_ready` (R12). -/
  txReady : Bool
  /-- `tick_pulse` (R13). -/
  tickPulse : Bool
  /-- `ir_in`, the electrical level (R14). -/
  irIn : Bool
  /-- One turn of the main loop (R150). -/
  poll : Option (List Byte)
  deriving DecidableEq, Repr

/-- The line state: `MARK` when `ir_in == IR_MARK_LEVEL` (R14). -/
def lineState (cfg : Config) (irIn : Bool) : Level := if irIn = cfg.irMarkLevel then .mark else .space

/-- `tx_valid` (R12): 1 exactly when `tx_state != TX_IDLE`. -/
def State.txValid (s : State) : Bool := s.tx.state != .idle

/-- `tx_data` (R103): the byte the next transfer would carry; none while `tx_valid` is 0 (and where TX.BYTE would
fault). -/
def State.txData (s : State) : Option Byte :=
  match s.txColumns.transfer with
  | .next c => c.sent
  | _ => none

/-- `tick_en`, the output to the outside timer (R13). -/
def State.tickEnOut (s : State) : Bool := s.tick.en

/-- (1) of R191: the tick pulse. -/
def cycleTick (pins : Pins) (s : State) : Result := if pins.tickPulse then execTickPulse s else .next s

/-- (2) of R191: an edge, if the line state differs from `ir_level` (R14). -/
def cycleEdge (pins : Pins) (s : State) : Result :=
  if lineState s.cfg pins.irIn = s.ir.level then .next s else execIrEdge (lineState s.cfg pins.irIn) s

/-- (3) of R191: a received byte. -/
def cycleRx (pins : Pins) (s : State) : Result :=
  match pins.rx with
  | some b => execRxByte b s
  | none => .next s

/-- (4) of R191: a byte transfer, when `tx_valid = 1` and `tx_ready = 1` (R12). -/
def cycleTx (pins : Pins) (s : State) : Result := if s.txValid && pins.txReady then execTxByte s else .next s

/-- (5) of R191: a turn of the main loop. -/
def cyclePoll (pins : Pins) (s : State) : Result :=
  match pins.poll with
  | some r => execDispPoll r s
  | none => .next s

/-- The four events of a cycle that come before the main loop's turn (R191). -/
def cycleInterrupts (pins : Pins) (s : State) : Result :=
  andThen (andThen (andThen (cycleTick pins s) (cycleEdge pins)) (cycleRx pins)) (cycleTx pins)

/-- One clock cycle (R11, R191): reset overrides every other event (R210); else the five events in the fixed order,
each seeing the state the one before left. -/
def cycle (pins : Pins) (s : State) : Result :=
  if pins.rst then execReset s else andThen (cycleInterrupts pins s) (cyclePoll pins)

/-- The driver call a turn of the main loop makes, if any (R152: at most one). -/
def State.pollCall (s : State) (r : List Byte) : Option DrvCall :=
  match s.dispColumns.poll r with
  | .next c => c.call
  | _ => none

/-- The driver port in one clock cycle (R15, R152): the call whose `drv_req` pulse the cycle carries, with `drv_op`,
`drv_arg0` and `drv_arg1` as `DrvCall.op`, `DrvCall.arg0` and `DrvCall.arg1`. The exchange up to `drv_done` is part of
the one poll. -/
def drvPort (pins : Pins) (s : State) : Option DrvCall :=
  if pins.rst then none
  else
    match cycleInterrupts pins s, pins.poll with
    | .next t, some r => t.pollCall r
    | _, _ => none

/-- `drv_req` (R15), a one-cycle pulse. -/
def drvReq (pins : Pins) (s : State) : Bool := (drvPort pins s).isSome

end Sys2Proof.Machine
end

