-- ==== Sys2Proof/Safety.lean ====
section
/-! DEFINITION. What counts as a safe run, and the words the statements use: executions (R6), the invariant of
10_state.md rule R34 with the buffer facts of 20_memory.md rules R45 and R46, and the conditions of the rules written
out a second time from the spec, so that a statement does not merely repeat a definition of the machine. -/

namespace Sys2Proof.Machine

/-- An execution (R6): the instructions performed in order; a stop ends it. -/
def execAll : List Instr → State → Result
  | [], s => .next s
  | i :: is, s => andThen (exec i s) (execAll is)

/-- A state of an execution without fault (R220). -/
abbrev State.FaultFree (s : State) : Prop := s.faultSeen = false

/-- The event rows of R70, which alone the environment or the scheduler offers. -/
def isEventRow : Instr → Bool
  | .reset => true
  | .rxByte _ => true
  | .txByte => true
  | .tickPulse => true
  | .irEdge _ => true
  | .dispPoll _ => true
  | _ => false

/-- Both instructions, a row that names a case and the operation it is a case of, answer this next state. -/
abbrev BothAnswer (i j : Instr) (s t : State) : Prop := exec i s = .next t ∧ exec j s = .next t

/-- The window of R9, written out: `[x - x*3/10, x + x*3/10]`, both ends inside. -/
abbrev InWindow (d x : Nat) : Prop := x - x * 3 / 10 ≤ d ∧ d ≤ x + x * 3 / 10

/-- A byte that completes the sync pattern (R82). -/
abbrev CompletesSync (k : BitVec 2) (b : Byte) : Prop := k = 3 ∧ b = 0x58

/-- The sync counter after a byte that does not complete the pattern (R81): `SYNC` is `91 EB FA 58`. -/
abbrev nextSync (k : BitVec 2) (b : Byte) : BitVec 2 :=
  if (k = 0 ∧ b = 0x91) ∨ (k = 1 ∧ b = 0xEB) ∨ (k = 2 ∧ b = 0xFA) then k + 1 else 0

/-- The receiver's checksum after a length byte (R84, R85; the XOR is omitted if `CHK_COVERS_LEN = false`). -/
abbrev chkAfterLen (s : State) (chk b : Byte) : Byte := if s.cfg.chkCoversLen = true then chk ^^^ b else chk

/-- The sender just loaded by `TX.START(c, n)` (R101). -/
abbrev loadedTx (c : Byte) (n : Nat) : TxUnit := { state := .sync, idx := 0, len := BitVec.ofNat 16 (n + 1), cmd := c, chk := 0 }

/-- The IR registers after `go_idle` on an edge to `l` (R127). -/
abbrev idleIr (s : State) (l : Level) : IrUnit :=
  { s.ir with level := l, phase := .idle, bitIdx := 0, word := 0, lastMark := false }

/-- The tick source stopped (R118). -/
abbrev stoppedTick : TickUnit := { en := false, cnt := 0 }

/-- An enabled edge that aborts the decode attempt (R135): outside `IR_IDLE`, a wrong direction or a duration outside
every window tested in the phase (R126). -/
def AbortsAttempt (s : State) (l : Level) : Prop :=
  l ≠ s.ir.level ∧
    ((s.ir.phase = .leadMark ∧ ¬ (l = .space ∧ InWindow s.tick.cnt s.cfg.tLeadMark)) ∨
     (s.ir.phase = .leadSpace ∧
       ¬ (l = .mark ∧ (InWindow s.tick.cnt s.cfg.tLeadSpace ∨ InWindow s.tick.cnt s.cfg.tRepeatSpace))) ∨
     (s.ir.phase = .bitMark ∧ ¬ (l = .space ∧ InWindow s.tick.cnt s.cfg.tBitMark)) ∨
     (s.ir.phase = .bitSpace ∧
       ¬ (l = .mark ∧ (InWindow s.tick.cnt s.cfg.tZeroSpace ∨ InWindow s.tick.cnt s.cfg.tOneSpace))))

/-- A request with this code waits and the main loop is free (R150, R151). -/
abbrev PacketWaits (s : State) (c : Byte) : Prop := s.tx.state = .idle ∧ s.pkt.pending = true ∧ s.pkt.cmd = c

/-- The state after a request was answered with an empty payload (R151, R153 to R157, R160), the outputs and the drop
trace aside. -/
abbrev answeredEmpty (s : State) (c : Byte) : State :=
  { s with pkt := { s.pkt with pending := false }, respLen := 0, tx := loadedTx c 0 }

/-- The payload of the pending packet (R47), whatever stands at its indices. -/
abbrev PayloadIs (s : State) (p : List Byte) : Prop :=
  s.pkt.len.toNat = p.length ∧ p.length < s.cfg.rxBufCap ∧ ∀ i, i < p.length → p[i]? = some (s.rxBuf.rxByte (1 + i))

/-- Every byte of both buffers reads as before. -/
abbrev SameBuffers (s t : State) : Prop :=
  (∀ i, t.rxBuf.read i = s.rxBuf.read i) ∧ ∀ i, t.respBuf.read i = s.respBuf.read i

/-- Every index below `n` has been written. -/
abbrev WrittenBelow (m : Memory) (n : Nat) : Prop := ∀ i, i < n → (m.read i).isSome = true

/-- Every listed index is below `n`. -/
abbrev ListedBelow (m : Memory) (n : Nat) : Prop := ∀ i, (m.read i).isSome = true → i < n

/-- R34 item 9: what is being sent is the response. It holds after every operation if every TX.START has `n = resp_len`,
as R101's Operands line says and DISP.POLL does; with another `n` it does not (log entry 7). With it,
`State.Inv.txPayload` says `tx_idx < resp_len`. -/
abbrev State.SendsResponse (s : State) : Prop := s.tx.state ≠ .idle → s.tx.len.toNat = s.respLen.toNat + 1

/-- The invariant: the items of R34 (items 1 and 2 hold by the types, the rest of item 9 is `SendsResponse`), a legal configuration (R5), the buffers in
canonical form and within bounds (R45), the bytes that a rule will read already written (R46), and two facts that make
item 6 inductive (DEDUCED, log entry 19). -/
structure State.Inv (s : State) : Prop where
  /-- R5. -/
  legal : ConfigLegal s.cfg
  /-- The canonical form of RXBUF. -/
  rxBufWf : s.rxBuf.wf = true
  /-- The canonical form of RESPBUF. -/
  respBufWf : s.respBuf.wf = true
  /-- R45: nothing is stored beyond RXBUF. -/
  rxBufBound : ListedBelow s.rxBuf s.cfg.rxBufCap
  /-- R45: nothing is stored beyond RESPBUF. -/
  respBufBound : ListedBelow s.respBuf Config.respBufCap
  /-- R34 item 3. -/
  readingData : s.rx.state = .readingData →
    1 ≤ s.rx.len.toNat ∧ s.rx.len.toNat ≤ s.cfg.rxBufCap ∧ s.rx.off.toNat < s.rx.len.toNat
  /-- R34 item 4. -/
  readingChecksum : s.rx.state = .readingChecksum →
    1 ≤ s.rx.len.toNat ∧ s.rx.len.toNat ≤ s.cfg.rxBufCap ∧ s.rx.off = s.rx.len
  /-- R34 item 5, R119. -/
  tickIdle : s.tick.en = false ↔ s.ir.phase = .idle
  /-- R34 item 5, R119. -/
  tickZero : s.tick.en = false → s.tick.cnt = 0
  /-- `tick_cnt` fits its register (R23, R117). -/
  tickFits : s.tick.cnt < 2 ^ s.cfg.tickW
  /-- R34 item 6. -/
  bitIdx : s.ir.bitIdx.toNat ≤ 32
  /-- R34 item 6. -/
  lastMark : s.ir.lastMark = true → s.ir.bitIdx.toNat = 32 ∧ s.ir.phase = .bitMark
  /-- R34 item 6. -/
  bitSpace : s.ir.phase = .bitSpace → s.ir.bitIdx.toNat ≤ 31
  /-- DEDUCED: all 32 bits in means the mark in progress is the final mark. -/
  bitMark : s.ir.phase = .bitMark → s.ir.bitIdx.toNat = 32 → s.ir.lastMark = true
  /-- DEDUCED: no bit has been shifted in during the leader. -/
  leader : s.ir.phase = .leadMark ∨ s.ir.phase = .leadSpace → s.ir.bitIdx = 0
  /-- R34 item 7. -/
  idleClear : s.ir.phase = .idle → s.ir.bitIdx = 0 ∧ s.ir.word = 0 ∧ s.ir.lastMark = false
  /-- R34 item 8. -/
  markPhases : s.ir.phase = .leadMark ∨ s.ir.phase = .bitMark → s.ir.level = .mark
  /-- R34 item 8. -/
  spacePhases : s.ir.phase = .leadSpace ∨ s.ir.phase = .bitSpace → s.ir.level = .space
  /-- R101: a frame being sent has at most 255 payload bytes. -/
  txLen : s.tx.state ≠ .idle → 1 ≤ s.tx.len.toNat ∧ s.tx.len.toNat ≤ 256
  /-- R34 item 9. -/
  txSync : s.tx.state = .sync → s.tx.idx.toNat ≤ 3
  /-- R34 item 9, with `tx_len - 1` for `resp_len` (log entry 7): the next payload byte is one of the frame's. -/
  txPayload : s.tx.state = .payload → s.tx.idx.toNat + 1 < s.tx.len.toNat
  /-- R34 item 10. -/
  pktLen : s.pkt.pending = true → s.pkt.len.toNat ≤ s.cfg.rxBufCap - 1
  /-- R46: the bytes of the frame in progress. -/
  dataWritten : s.rx.state = .readingData → WrittenBelow s.rxBuf s.rx.off.toNat
  /-- R46: all bytes of a frame whose checksum is awaited. -/
  frameWritten : s.rx.state = .readingChecksum → WrittenBelow s.rxBuf s.rx.len.toNat
  /-- R46: the bytes of the pending packet. -/
  packetWritten : s.pkt.pending = true → WrittenBelow s.rxBuf (s.pkt.len.toNat + 1)
  /-- R46: the bytes of the response. -/
  respWritten : WrittenBelow s.respBuf s.respLen.toNat

/-- The next receiver state (R96), from the table: `L` is the length with this high byte. -/
def rxTable (s : State) (b : Byte) : RxState :=
  if CompletesSync s.rx.syncCnt b then .lengthLow
  else match s.rx.state with
    | .scanningSync => .scanningSync
    | .lengthLow => .lengthHigh
    | .lengthHigh =>
      if 1 ≤ s.rx.len.toNat % 256 + 256 * b.toNat ∧ s.rx.len.toNat % 256 + 256 * b.toNat ≤ s.cfg.rxBufCap then
        .readingData
      else .scanningSync
    | .readingData => if s.rx.off.toNat + 1 = s.rx.len.toNat then .readingChecksum else .readingData
    | .readingChecksum => .scanningSync

/-- The next decoder phase (R137), from the table, for an edge to `l` after `d` ticks. -/
def irTable (s : State) (l : Level) (d : Nat) : IrPhase :=
  match s.ir.phase, l with
  | .idle, .mark => .leadMark
  | .idle, .space => .idle
  | .leadMark, .space => if InWindow d s.cfg.tLeadMark then .leadSpace else .idle
  | .leadMark, .mark => .idle
  | .leadSpace, .mark => if InWindow d s.cfg.tLeadSpace then .bitMark else .idle
  | .leadSpace, .space => .idle
  | .bitMark, .space => if InWindow d s.cfg.tBitMark ∧ s.ir.lastMark = false then .bitSpace else .idle
  | .bitMark, .mark => .idle
  | .bitSpace, .mark =>
    if InWindow d s.cfg.tZeroSpace ∨ InWindow d s.cfg.tOneSpace then .bitMark else .idle
  | .bitSpace, .space => .idle

/-- Equal but for the drop trace, which the hardware does not have (R180). -/
abbrev SameButDrops (s t : State) : Prop := { s with drops := [] } = { t with drops := [] }

/-- `MARK d` or `SPACE d` of R73 for given durations: the data bits of a word from bit `n - 1` down, bit `k` with the
mark `marks k` and the space `spaces k`. -/
def timedBits (marks spaces : List Nat) : List Instr :=
  match marks, spaces with
  | m :: ms, d :: ds => markScript m ++ spaceScript d ++ timedBits ms ds
  | _, _ => []

/-- A whole IR frame with given durations (R64): leader, 32 data bits, final mark; the closing edge apart. -/
def timedFrame (leadMark leadSpace : Nat) (marks spaces : List Nat) (finalMark : Nat) : List Instr :=
  markScript leadMark ++ spaceScript leadSpace ++ timedBits marks spaces ++ markScript finalMark

end Sys2Proof.Machine
end

