-- ==== Sys2Proof/Certificates/Slice0/Obligations.lean ====
section
/-! DEFINITION. The statements for the provers: what each operation of the block does, its frame, and what holds of
every execution. A docstring names the rule of spec/ a statement formalises; "log entry n" is notes/assumptions/n.md,
a choice of the model. -/

open Sys2Proof Sys2Proof.Machine

/-! ### Encoding and stepping -/

/-- The encoder and the decoder of the event stream agree on every well-formed instruction, whatever bytes follow
(the byte layout is the model's choice, log entry 2). -/
def Obligations.DecodeInvertsEncode : Prop :=
  ∀ (i : Instr) (rest : List Byte), i.wf = true → decode (encode i ++ rest) = .ok (i, rest)

/-- Whatever the decoder reads is a well-formed instruction, and it consumes at least two bytes from the front and
nothing else (log entry 2). -/
def Obligations.DecodeGivesWellFormed : Prop :=
  ∀ (bs : List Byte) (i : Instr) (rest : List Byte), decode bs = .ok (i, rest) →
    i.wf = true ∧ ∃ used : List Byte, bs = used ++ rest ∧ 2 ≤ used.length

/-- Words written out from the match values of R66, R70, R16, R22 and R24 decode to the instruction they stand for
(selector bytes: log entry 2). -/
def Obligations.SpecWordsDecode : Prop :=
  decode [0x00, 0x00] = .ok (.reset, []) ∧ decode [0x01, 0x00, 0x91] = .ok (.rxByte 0x91, []) ∧
  decode [0x04, 0x00, 0x01] = .ok (.irEdge .mark, []) ∧
  decode [0x05, 0x00, 0x02, 0x12, 0x34] = .ok (.dispPoll [0x12, 0x34], []) ∧
  decode [0x00, 0x01] = .ok (.nop, []) ∧ decode [0xDE, 0x01] = .ok (.displayFlush, []) ∧
  decode [0xA9, 0x01] = .ok (.displayPower, []) ∧ decode [0x42, 0x01] = .ok (.unknownCommand 0x42, []) ∧
  decode [0x03, 0x02, 0xA9] = .ok (.rxReadingData 0xA9, []) ∧ decode [0x06, 0x03] = .ok (.txChk, []) ∧
  decode [0x02, 0x04, 0x01] = .ok (.irLeadSpace .mark, [])

/-- A step takes the instruction at the front of the event stream, removes its bytes and performs it; with an empty
stream nothing changes; bytes that are no instruction are refused by name (log entry 1). -/
def Obligations.StepRunsDecodedInstruction : Prop :=
  ∀ s : State,
    (∀ i rest, decode s.events = .ok (i, rest) → step s = exec i { s with events := rest }) ∧
    (s.events = [] → step s = .next s) ∧
    (∀ e, s.events ≠ [] → decode s.events = .error e → step s = .refused (.illFormedScript e))

/-! ### Reset and tick -/

/-- The reset column of R10 after power-up, whatever bytes the two arrays hold (R211: a parameter, here the lists `rx`
and `resp`): every scalar register 0 or idle, `pkt_ptr` 1, and the output ports `tx_valid`, `drv_req` and `tick_en` 0,
`drv_req` with any pins in the first cycle. `State.reset` is the case of free bytes everywhere (log entry 10). -/
def Obligations.ResetStateHoldsSpecValues : Prop :=
  State.reset = State.powerUp [] [] ∧
  ∀ (rx resp : List Byte) (s : State), s = State.powerUp rx resp →
    s.rx = { state := .scanningSync, syncCnt := 0, len := 0, off := 0, chk := 0 } ∧
    s.pkt = { pending := false, cmd := 0, len := 0 } ∧
    s.tx = { state := .idle, idx := 0, len := 0, cmd := 0, chk := 0 } ∧
    s.tick = { en := false, cnt := 0 } ∧
    s.ir = { level := .space, phase := .idle, bitIdx := 0, word := 0, lastMark := false, lastValid := false,
             lastAddr := 0, lastCmd := 0 } ∧
    s.irBox = { pending := false, addr := 0, cmd := 0 } ∧ s.respLen = 0 ∧ s.pktPtr = 1 ∧ s.faultSeen = false ∧
    (∀ i, s.rxBuf.read i = rx[i]? ∧ s.respBuf.read i = resp[i]?) ∧
    s.txValid = false ∧ s.tickEnOut = false ∧ ∀ pins, drvReq pins s = false

/-- R210: RESET, always enabled, clears every register but the two arrays, which it does not write, and the fault
mark (R220). (What becomes of the model's records of events, outputs and drops is the model's choice, log entry 13, and
is not stated here.) -/
def Obligations.ResetWritesEveryRegister : Prop :=
  ∀ s : State, ∃ t : State, exec .reset s = .next t ∧
    t.rx = { state := .scanningSync, syncCnt := 0, len := 0, off := 0, chk := 0 } ∧
    t.pkt = { pending := false, cmd := 0, len := 0 } ∧
    t.tx = { state := .idle, idx := 0, len := 0, cmd := 0, chk := 0 } ∧ t.respLen = 0 ∧
    t.tick = { en := false, cnt := 0 } ∧
    t.ir = { level := .space, phase := .idle, bitIdx := 0, word := 0, lastMark := false, lastValid := false,
             lastAddr := 0, lastCmd := 0 } ∧
    t.irBox = { pending := false, addr := 0, cmd := 0 } ∧ t.faultSeen = false ∧ t.cfg = s.cfg ∧ SameBuffers s t

/-- R117: TICK.PULSE counts while the tick source is enabled and saturates at `2^TICK_W - 1`; nothing else changes. -/
def Obligations.TickPulseCountsAndSaturates : Prop :=
  ∀ s : State, exec .tickPulse s = .next
    (if s.tick.en = true ∧ s.tick.cnt < 2 ^ s.cfg.tickW - 1 then
      { s with tick := { s.tick with cnt := s.tick.cnt + 1 } }
    else s)

/-! ### Frame Receiver -/

/-- R81, R83: the sync matcher's step writes `sync_cnt` and nothing else: one more on the next expected sync byte, else
0; in `ScanningSync` that is all a byte does. -/
def Obligations.SyncMatcherWritesOnlyCounter : Prop :=
  ∀ (s : State) (b : Byte), ¬ CompletesSync s.rx.syncCnt b →
    exec (.rxSyncMatchStep b) s = .next { s with rx := { s.rx with syncCnt := nextSync s.rx.syncCnt b } } ∧
    (s.rx.state = .scanningSync →
      BothAnswer (.rxByte b) (.rxScanningSync b) s { s with rx := { s.rx with syncCnt := nextSync s.rx.syncCnt b } })

/-- R82: in every receiver state the byte that completes the sync pattern restarts framing, and only that: the
checksum and the counter are cleared, every other register keeps its value; a frame in progress is dropped. -/
def Obligations.SyncOverrideRestartsFraming : Prop :=
  ∀ s : State, s.rx.syncCnt = 3 →
    BothAnswer (.rxByte 0x58) (.rxSyncOverride 0x58) s
      { s with rx := { s.rx with state := .lengthLow, syncCnt := 0, chk := 0 },
               drops := if s.rx.state = .scanningSync then s.drops else s.drops ++ [.resync] }

/-- R84: `LengthLow` captures the low length byte (XORed in if `CHK_COVERS_LEN`) and goes to `LengthHigh`. -/
def Obligations.LengthLowCapturesLowByte : Prop :=
  ∀ (s : State) (b : Byte), s.rx.state = .lengthLow → ¬ CompletesSync s.rx.syncCnt b →
    BothAnswer (.rxByte b) (.rxLengthLow b) s
      { s with rx := { state := .lengthHigh, syncCnt := nextSync s.rx.syncCnt b, len := BitVec.ofNat 16 b.toNat,
                       off := s.rx.off, chk := chkAfterLen s s.rx.chk b } }

/-- R85: `LengthHigh` forms `L = rx_len[7:0] + 256 * b`; zero is dropped, more than the capacity is dropped, any other
length is accepted with `rx_off` cleared; no byte is stored in any case. -/
def Obligations.LengthHighJudgesLength : Prop :=
  ∀ (s : State) (b : Byte) (L : Nat), s.rx.state = .lengthHigh → ¬ CompletesSync s.rx.syncCnt b →
    L = s.rx.len.toNat % 256 + 256 * b.toNat →
    BothAnswer (.rxByte b) (.rxLengthHigh b) s
      (if L = 0 then
        { s with rx := { state := .scanningSync, syncCnt := nextSync s.rx.syncCnt b, len := BitVec.ofNat 16 L,
                         off := s.rx.off, chk := chkAfterLen s s.rx.chk b },
                 drops := s.drops ++ [.zeroLength] }
      else if s.cfg.rxBufCap < L then
        { s with rx := { state := .scanningSync, syncCnt := nextSync s.rx.syncCnt b, len := BitVec.ofNat 16 L,
                         off := s.rx.off, chk := chkAfterLen s s.rx.chk b },
                 drops := s.drops ++ [.oversize] }
      else
        { s with rx := { state := .readingData, syncCnt := nextSync s.rx.syncCnt b, len := BitVec.ofNat 16 L,
                         off := 0, chk := chkAfterLen s s.rx.chk b } })

/-- R86: `ReadingData` stores the byte at `rx_off` whatever `pkt_pending` says, XORs it in, counts it, and goes to
`ReadingChecksum` with the last one; storing while a packet is pending sets the fault mark. Every other byte of both
buffers reads as before. -/
def Obligations.ReadingDataStoresByte : Prop :=
  ∀ (s : State) (b : Byte), s.rx.state = .readingData → ¬ CompletesSync s.rx.syncCnt b →
    s.rx.off.toNat < s.cfg.rxBufCap →
    ∃ t : State, BothAnswer (.rxByte b) (.rxReadingData b) s t ∧
      t = { s with
        rx := { state := if s.rx.off.toNat + 1 = s.rx.len.toNat then .readingChecksum else .readingData,
                syncCnt := nextSync s.rx.syncCnt b, len := s.rx.len, off := s.rx.off + 1, chk := s.rx.chk ^^^ b },
        faultSeen := s.faultSeen || s.pkt.pending, rxBuf := t.rxBuf } ∧
      t.rxBuf.read s.rx.off.toNat = some b ∧
      ∀ i, i ≠ s.rx.off.toNat → t.rxBuf.read i = s.rxBuf.read i

/-- R87: in `ReadingChecksum` a byte that is not the accumulated checksum drops the frame; the state returns to
`ScanningSync` and no packet is emitted. (The matching byte is the next statement.) -/
def Obligations.WrongChecksumIsDropped : Prop :=
  ∀ (s : State) (b : Byte), s.rx.state = .readingChecksum → ¬ CompletesSync s.rx.syncCnt b → b ≠ s.rx.chk →
    BothAnswer (.rxByte b) (.rxReadingChecksum b) s
      { s with rx := { s.rx with state := .scanningSync, syncCnt := nextSync s.rx.syncCnt b },
               drops := s.drops ++ [.checksum] }

/-- R88 and the matching case of R87: the packet mailbox is filled from `rx_buf[0]` and `rx_len - 1`, whether or not a
packet was pending already, and the state returns to `ScanningSync`; the emission alone writes the mailbox and nothing
else. -/
def Obligations.RightChecksumEmitsPacket : Prop :=
  ∀ (s : State) (b c : Byte), s.rx.state = .readingChecksum → ¬ CompletesSync s.rx.syncCnt b → b = s.rx.chk →
    0 < s.cfg.rxBufCap → c = s.rxBuf.rxByte 0 →
    BothAnswer (.rxByte b) (.rxReadingChecksum b) s
      { s with rx := { s.rx with state := .scanningSync, syncCnt := nextSync s.rx.syncCnt b },
               pkt := { pending := true, cmd := c, len := BitVec.ofNat 16 (s.rx.len.toNat - 1) } } ∧
    exec (.rxEmitPacket b) s = .next
      { s with pkt := { pending := true, cmd := c, len := BitVec.ofNat 16 (s.rx.len.toNat - 1) } }

/-- R96: the complete next-state table of `rx_state`. -/
def Obligations.ReceiverTransitionTable : Prop :=
  ∀ (s t : State) (b : Byte), exec (.rxByte b) s = .next t → t.rx.state = rxTable s b

/-- The receiver's columns of R32. RX.BYTE writes its own registers, one byte of RXBUF, the packet mailbox (whose flag
it never clears), the fault mark and the drop trace, and nothing else. It reads its own registers and `rx_buf[0]` (and
the configuration): in any state `u` that agrees with `s` on these it writes the same values, whatever else `u` holds.
(The fault mark is the model's; R86 has it look at `pkt_pending`.) -/
def Obligations.RxByteKeepsToItsColumns : Prop :=
  ∀ (s t u : State) (b : Byte), exec (.rxByte b) s = .next t →
    (t.tx = s.tx ∧ t.tick = s.tick ∧ t.ir = s.ir ∧ t.irBox = s.irBox ∧ t.respLen = s.respLen ∧ t.cfg = s.cfg ∧
      t.events = s.events ∧ t.outputs = s.outputs ∧
      (s.pkt.pending = true → t.pkt.pending = true) ∧
      (∀ i, t.respBuf.read i = s.respBuf.read i) ∧
      (∀ i, ¬ (s.rx.state = .readingData ∧ ¬ CompletesSync s.rx.syncCnt b ∧ i = s.rx.off.toNat) →
        t.rxBuf.read i = s.rxBuf.read i)) ∧
    (u.cfg = s.cfg → u.rx = s.rx → u.rxBuf.rxByte 0 = s.rxBuf.rxByte 0 →
      ∃ v ds, exec (.rxByte b) u = .next v ∧ v.rx = t.rx ∧
        (v.pkt = t.pkt ∧ t.pkt.pending = true ∨ v.pkt = u.pkt ∧ t.pkt = s.pkt) ∧
        (∀ i, v.rxBuf.read i = t.rxBuf.read i ∨ v.rxBuf.read i = u.rxBuf.read i ∧ t.rxBuf.read i = s.rxBuf.read i) ∧
        v.drops = u.drops ++ ds ∧ t.drops = s.drops ++ ds)

/-- R95 (from R45): RX.BYTE never changes a byte at or above the capacity, and a `LengthHigh` byte that makes the
length exceed it stores nothing and leaves the receiver scanning. -/
def Obligations.OversizeLengthStoresNothing : Prop :=
  ∀ (s : State) (b : Byte),
    (∀ t i, exec (.rxByte b) s = .next t → s.cfg.rxBufCap ≤ i → t.rxBuf.read i = s.rxBuf.read i) ∧
    (s.rx.state = .lengthHigh → ¬ CompletesSync s.rx.syncCnt b →
      s.cfg.rxBufCap < s.rx.len.toNat % 256 + 256 * b.toNat →
      ∃ t, exec (.rxByte b) s = .next t ∧ t.rx.state = .scanningSync ∧ SameBuffers s t ∧ t.pkt = s.pkt)

/-- R90: after any bytes, `sync_cnt` is what `scan` says. -/
def Obligations.ScanPredictsSyncCounter : Prop :=
  ∀ (bs : List Byte) (s t : State), execAll (rxScript bs) s = .next t →
    t.rx.syncCnt = (scan s.rx.syncCnt bs).2

/-- R194, R82: from every state that meets the invariant with no sync byte matched, the four bytes of the sync pattern
re-arm the receiver. -/
def Obligations.SyncPatternRearmsReceiver : Prop :=
  ∀ s : State, s.Inv → s.rx.syncCnt = 0 →
    ∃ t, execAll (rxScript [0x91, 0xEB, 0xFA, 0x58]) s = .next t ∧
      t.rx.state = .lengthLow ∧ t.rx.syncCnt = 0 ∧ t.rx.chk = 0

/-- R93, the round trip: a frame of at most `RX_BUF_CAP - 1` payload bytes whose body is sync-free, fed byte by byte
with `sync_cnt = 0` and no packet pending, delivers its command and payload, whatever the frame in progress was, if the
three sync bytes that were still handed to it did not themselves complete a packet (a premise R93 does not state; see
log entry 18). With `CHK_COVERS_LEN = false` the frame's checksum leaves the length bytes out (the model's reading, log
entry 24). -/
def Obligations.FrameRoundTrip : Prop :=
  ∀ (s u : State) (c : Byte) (p : List Byte), 1025 ≤ s.cfg.rxBufCap → s.cfg.rxBufCap ≤ 65535 →
    p.length ≤ s.cfg.rxBufCap - 1 → s.rx.syncCnt = 0 → s.pkt.pending = false →
    execAll (rxScript [0x91, 0xEB, 0xFA, 0x58]) s = .next u → u.pkt.pending = false →
    (scan 0 (frameBody s.cfg c p)).1 = false →
    ∃ t, execAll (rxScript (wireEncode s.cfg c p)) s = .next t ∧
      t.pkt = { pending := true, cmd := c, len := BitVec.ofNat 16 p.length } ∧
      t.rxBuf.read 0 = some c ∧ (∀ i, i < p.length → t.rxBuf.read (1 + i) = p[i]?) ∧
      t.rx.state = .scanningSync ∧ t.faultSeen = s.faultSeen

/-- R94: from the premises of the round trip (with the same extra premise, log entry 18), if one bit of one byte among
the command and the payload, or of the checksum byte, is flipped and the altered body is still sync-free, no packet is
delivered: the mailbox is unchanged, the last drop is the checksum's and the receiver ends in `ScanningSync`.(The frame's checksum
with `CHK_COVERS_LEN = false`: log entry 24.) -/
def Obligations.FlippedBitIsDropped : Prop :=
  ∀ (s u : State) (c x : Byte) (p body : List Byte) (k j : Nat), 1025 ≤ s.cfg.rxBufCap → s.cfg.rxBufCap ≤ 65535 →
    p.length ≤ s.cfg.rxBufCap - 1 → s.rx.syncCnt = 0 → s.pkt.pending = false →
    execAll (rxScript [0x91, 0xEB, 0xFA, 0x58]) s = .next u → u.pkt.pending = false →
    2 ≤ k → j < 8 → (frameBody s.cfg c p)[k]? = some x →
    body = (frameBody s.cfg c p).set k (x ^^^ BitVec.ofNat 8 (2 ^ j)) → (scan 0 body).1 = false →
    ∃ t ds, execAll (rxScript ([0x91, 0xEB, 0xFA, 0x58] ++ body)) s = .next t ∧
      t.pkt = s.pkt ∧ t.rx.state = .scanningSync ∧ t.drops = ds ++ [.checksum]

/-! ### Frame Sender -/

/-- R101: TX.START loads the sender in `TX_IDLE` for at most 255 bytes, whatever `resp_len` is (it reads nothing, log
entry 7), writes the sender's registers and nothing else, and is refused otherwise (U8). -/
def Obligations.TxStartLoadsSender : Prop :=
  ∀ (s : State) (c : Byte) (n : Half),
    (s.tx.state = .idle → n.toNat ≤ 255 →
      exec (.txStart c n) s = .next { s with tx := loadedTx c n.toNat }) ∧
    (s.tx.state ≠ .idle ∨ 255 < n.toNat →
      exec (.txStart c n) s = .refused .txStartNotEnabled)

/-- R103, `TX_SYNC`: transfers `SYNC[tx_idx]`, not XORed; after the fourth byte the length follows. -/
def Obligations.TxSyncSendsPattern : Prop :=
  ∀ (s : State) (b : Byte), s.tx.state = .sync → [0x91, 0xEB, 0xFA, 0x58][s.tx.idx.toNat]? = some b →
    BothAnswer .txByte .txSync s
      { s with tx := if s.tx.idx = 3 then { s.tx with idx := 0, state := .lenLo }
                     else { s.tx with idx := s.tx.idx + 1 },
               outputs := s.outputs ++ [.tx b] }

/-- R103, `TX_LENLO`, `TX_LENHI`, `TX_CMD` and `TX_CHK`: the two length bytes low first, the command byte, and the
accumulated checksum, each transferred once. -/
def Obligations.TxHeaderAndChecksumBytes : Prop :=
  ∀ s : State,
    (s.tx.state = .lenLo → BothAnswer .txByte .txLenLo s
      { s with tx := { s.tx with state := .lenHi,
                                 chk := chkAfterLen s s.tx.chk (BitVec.ofNat 8 (s.tx.len.toNat % 256)) },
               outputs := s.outputs ++ [.tx (BitVec.ofNat 8 (s.tx.len.toNat % 256))] }) ∧
    (s.tx.state = .lenHi → BothAnswer .txByte .txLenHi s
      { s with tx := { s.tx with state := .cmd,
                                 chk := chkAfterLen s s.tx.chk (BitVec.ofNat 8 (s.tx.len.toNat / 256)) },
               outputs := s.outputs ++ [.tx (BitVec.ofNat 8 (s.tx.len.toNat / 256))] }) ∧
    (s.tx.state = .cmd → BothAnswer .txByte .txCmd s
      { s with tx := { s.tx with state := if s.tx.len = 1 then .chk else .payload, idx := 0,
                                 chk := s.tx.chk ^^^ s.tx.cmd },
               outputs := s.outputs ++ [.tx s.tx.cmd] }) ∧
    (s.tx.state = .chk → BothAnswer .txByte .txChk s
      { s with tx := { s.tx with state := .idle }, outputs := s.outputs ++ [.tx s.tx.chk] })

/-- R103, `TX_PAYLOAD`: transfers `resp_buf[tx_idx]` and XORs it in; payload byte `n - 1` is the last. -/
def Obligations.TxPayloadSendsResponseByte : Prop :=
  ∀ (s : State) (b : Byte), s.tx.state = .payload → s.tx.idx.toNat < 255 →
    b = s.respBuf.respByte s.tx.idx.toNat →
    BothAnswer .txByte .txPayload s
      { s with tx := if s.tx.idx.toNat + 2 = s.tx.len.toNat then { s.tx with state := .chk, chk := s.tx.chk ^^^ b }
                     else { s.tx with idx := s.tx.idx + 1, chk := s.tx.chk ^^^ b },
               outputs := s.outputs ++ [.tx b] }

/-- R105: `TX.START(c, n)` with the payload in `resp_buf`, then `n + 8` TX.BYTE, transfer exactly `encode(c, p)` in
order and leave the sender idle; no other unit's state changes. (R105 also allows other operations in between; that
they do not disturb the sender is what the frames of the other units say. With `CHK_COVERS_LEN = false` the checksum of
`encode` leaves the length bytes out: the model's reading, log entry 24.) -/
def Obligations.SenderTransmitsEncodedFrame : Prop :=
  ∀ (s : State) (c : Byte) (p : List Byte), s.tx.state = .idle → p.length ≤ 255 →
    (∀ i, i < p.length → p[i]? = some (s.respBuf.respByte i)) →
    ∃ t, execAll (.txStart c (BitVec.ofNat 16 p.length) :: List.replicate (p.length + 8) .txByte) s = .next t ∧
      t.tx.state = .idle ∧ t = { s with tx := t.tx, outputs := s.outputs ++ (wireEncode s.cfg c p).map .tx }

/-! ### IR Decoder -/

/-- R128: in `IR_IDLE` an edge to MARK starts the tick source and a decode attempt with a cleared accumulator; an edge
to SPACE changes the line state only. -/
def Obligations.IdleEdgeStartsAttempt : Prop :=
  ∀ s : State, s.ir.phase = .idle →
    (s.ir.level = .space → BothAnswer (.irEdge .mark) (.irIdle .mark) s
      { s with tick := { en := true, cnt := 0 },
               ir := { s.ir with level := .mark, phase := .leadMark, bitIdx := 0, word := 0, lastMark := false } }) ∧
    (s.ir.level = .mark → BothAnswer (.irEdge .space) (.irIdle .space) s
      { s with tick := { s.tick with cnt := 0 }, ir := { s.ir with level := .space } })

/-- R129: the edge that ends a leading mark: inside the window the leading space follows, else the attempt aborts. -/
def Obligations.LeadingMarkIsTimed : Prop :=
  ∀ (s : State) (l : Level), s.ir.phase = .leadMark → l ≠ s.ir.level →
    BothAnswer (.irEdge l) (.irLeadMark l) s
      (if l = .space ∧ InWindow s.tick.cnt s.cfg.tLeadMark then
        { s with tick := { s.tick with cnt := 0 }, ir := { s.ir with level := l, phase := .leadSpace } }
      else { s with tick := stoppedTick, ir := idleIr s l, drops := s.drops ++ [.irTiming] })

/-- R130: the edge that ends a leading space: a new frame, a repeat code (R134, resending the last accepted frame if
there is one), or an abort, in this order. -/
def Obligations.LeadingSpaceIsClassified : Prop :=
  ∀ (s : State) (l : Level), s.ir.phase = .leadSpace → l ≠ s.ir.level →
    BothAnswer (.irEdge l) (.irLeadSpace l) s
      (if l = .mark ∧ InWindow s.tick.cnt s.cfg.tLeadSpace then
        { s with tick := { s.tick with cnt := 0 }, ir := { s.ir with level := l, phase := .bitMark } }
      else if l = .mark ∧ InWindow s.tick.cnt s.cfg.tRepeatSpace then
        if s.ir.lastValid = true then
          { s with tick := stoppedTick, ir := idleIr s l,
                   irBox := { pending := true, addr := s.ir.lastAddr, cmd := s.ir.lastCmd } }
        else { s with tick := stoppedTick, ir := idleIr s l, drops := s.drops ++ [.irRepeatNoFrame] }
      else { s with tick := stoppedTick, ir := idleIr s l, drops := s.drops ++ [.irTiming] })

/-- R132: the edge that ends a bit mark: outside its window the attempt aborts; a good mark that is not the final one
is followed by its bit space; a good final mark finishes the frame (the row `IR.EDGE/finish`, whose effect R133 is a
statement of its own). -/
def Obligations.BitMarkIsTimed : Prop :=
  ∀ (s : State) (l : Level), s.ir.phase = .bitMark → l ≠ s.ir.level →
    (¬ (l = .space ∧ InWindow s.tick.cnt s.cfg.tBitMark) →
      BothAnswer (.irEdge l) (.irBitMark l) s
        { s with tick := stoppedTick, ir := idleIr s l, drops := s.drops ++ [.irTiming] }) ∧
    (l = .space → InWindow s.tick.cnt s.cfg.tBitMark → s.ir.lastMark = false →
      BothAnswer (.irEdge l) (.irBitMark l) s
        { s with tick := { s.tick with cnt := 0 }, ir := { s.ir with level := l, phase := .bitSpace } }) ∧
    (l = .space → InWindow s.tick.cnt s.cfg.tBitMark → s.ir.lastMark = true →
      ∃ t, BothAnswer (.irEdge l) (.irBitMark l) s t ∧ exec (.irFinish l) s = .next t)

/-- R131: the edge that ends a bit space: a zero or a one is shifted in at bit 0, the 32nd bit announces the final
mark; any other duration or direction aborts. -/
def Obligations.BitSpaceShiftsBitIn : Prop :=
  ∀ (s : State) (l : Level) (v : Nat), s.ir.phase = .bitSpace → l ≠ s.ir.level →
    v = (if InWindow s.tick.cnt s.cfg.tZeroSpace then 0 else 1) →
    BothAnswer (.irEdge l) (.irBitSpace l) s
      (if l = .mark ∧ (InWindow s.tick.cnt s.cfg.tZeroSpace ∨ InWindow s.tick.cnt s.cfg.tOneSpace) then
        { s with tick := { s.tick with cnt := 0 },
                 ir := { s.ir with level := l, phase := .bitMark,
                                   word := BitVec.ofNat 32 (2 * s.ir.word.toNat + v), bitIdx := s.ir.bitIdx + 1,
                                   lastMark := s.ir.lastMark || decide (s.ir.bitIdx.toNat + 1 = 32) } }
      else { s with tick := stoppedTick, ir := idleIr s l, drops := s.drops ++ [.irTiming] })

/-- R133: the edge that ends a good final mark accepts the frame exactly when both complement pairs match; an accepted
frame is remembered and raises its button event, any other is dropped; the decoder goes idle either way. -/
def Obligations.FinishJudgesComplements : Prop :=
  ∀ (s : State) (a na c nc : Byte), s.ir.phase = .bitMark → s.ir.level = .mark → s.ir.lastMark = true →
    InWindow s.tick.cnt s.cfg.tBitMark → s.ir.word.toNat = ((a.toNat * 256 + na.toNat) * 256 + c.toNat) * 256 + nc.toNat →
    ∃ t, BothAnswer (.irEdge .space) (.irFinish .space) s t ∧ exec (.irBitMark .space) s = .next t ∧
      t = if na = 0xFF - a ∧ nc = 0xFF - c then
        { s with tick := stoppedTick,
                 ir := { idleIr s .space with lastValid := true, lastAddr := a, lastCmd := c },
                 irBox := { pending := true, addr := a, cmd := c } }
      else { s with tick := stoppedTick, ir := idleIr s .space, drops := s.drops ++ [.irComplement] }

/-- R134: the edge that ends a repeat space resends the last accepted frame, or is dropped when there is none; the
decoder goes idle. -/
def Obligations.RepeatCodeResendsLastFrame : Prop :=
  ∀ s : State, s.ir.phase = .leadSpace → s.ir.level = .space → ¬ InWindow s.tick.cnt s.cfg.tLeadSpace →
    InWindow s.tick.cnt s.cfg.tRepeatSpace →
    BothAnswer (.irEdge .mark) (.irRepeatCode .mark) s
      (if s.ir.lastValid = true then
        { s with tick := stoppedTick, ir := idleIr s .mark,
                 irBox := { pending := true, addr := s.ir.lastAddr, cmd := s.ir.lastCmd } }
      else { s with tick := stoppedTick, ir := idleIr s .mark, drops := s.drops ++ [.irRepeatNoFrame] })

/-- R135: outside `IR_IDLE`, an edge of the wrong direction or at the end of a duration outside every window tested
there aborts the attempt: the decoder goes idle, the tick source stops, nothing is delivered. -/
def Obligations.OutOfWindowAborts : Prop :=
  ∀ (s : State) (l : Level), AbortsAttempt s l →
    BothAnswer (.irEdge l) (.irAbort l) s
      { s with tick := stoppedTick, ir := idleIr s l, drops := s.drops ++ [.irTiming] }

/-- R136: raising a button event writes the IR mailbox and nothing else, overwriting an event still pending. -/
def Obligations.RaiseEventFillsMailbox : Prop :=
  ∀ (s : State) (a c : Byte),
    exec (.irRaiseEvent a c) s = .next { s with irBox := { pending := true, addr := a, cmd := c } }

/-- R137: the complete next-phase table of `ir_phase`; every edge that is enabled completes. -/
def Obligations.DecoderTransitionTable : Prop :=
  ∀ (s : State) (l : Level), l ≠ s.ir.level →
    ∃ t, exec (.irEdge l) s = .next t ∧ t.ir.phase = irTable s l s.tick.cnt

/-- R138 for every word and every choice of durations inside their windows: from idle, the whole frame raises nothing
before its last edge and, at that edge, exactly one event if both complement pairs match and none if they do not. -/
def Obligations.IrFrameRaisesOneEvent : Prop :=
  ∀ (s : State) (w : Word) (a na c nc : Byte) (dLead dSpace dFinal : Nat) (marks spaces : List Nat),
    ConfigLegal s.cfg → s.ir.phase = .idle → s.ir.level = .space →
    w.toNat = ((a.toNat * 256 + na.toNat) * 256 + c.toNat) * 256 + nc.toNat →
    InWindow dLead s.cfg.tLeadMark → InWindow dSpace s.cfg.tLeadSpace → InWindow dFinal s.cfg.tBitMark →
    marks.length = 32 → spaces.length = 32 → (∀ m ∈ marks, InWindow m s.cfg.tBitMark) →
    (∀ k d, spaces[k]? = some d →
      InWindow d (if w.getLsbD (31 - k) = true then s.cfg.tOneSpace else s.cfg.tZeroSpace)) →
    ∃ u t, execAll (timedFrame dLead dSpace marks spaces dFinal) s = .next u ∧ u.irBox = s.irBox ∧
      exec (.irEdge .space) u = .next t ∧
      t = if na = 0xFF - a ∧ nc = 0xFF - c then
        { s with tick := stoppedTick,
                 ir := { idleIr s .space with lastValid := true, lastAddr := a, lastCmd := c },
                 irBox := { pending := true, addr := a, cmd := c } }
      else { s with tick := stoppedTick, ir := idleIr s .space, drops := s.drops ++ [.irComplement] }

/-! ### Command Dispatcher -/

/-- R153: a NOP packet is answered with an empty payload, no driver call is made. -/
def Obligations.NopIsAnswered : Prop :=
  ∀ (s : State) (r : List Byte), PacketWaits s 0x00 → BothAnswer (.dispPoll r) .nop s (answeredEmpty s 0x00)

/-- R154: DISPLAY_FLUSH passes the first 1024 payload bytes to the display driver and answers with an empty payload. -/
def Obligations.FlushPassesFramebuffer : Prop :=
  ∀ (s : State) (r p : List Byte), PacketWaits s 0xDE → PayloadIs s p → 1024 ≤ p.length →
    BothAnswer (.dispPoll r) .displayFlush s
      { answeredEmpty s 0xDE with outputs := s.outputs ++ [.call (.flush (p.take 1024))] }

/-- R155: DISPLAY_POWER calls `powerOff` on 0 and `powerOn` on every other value. -/
def Obligations.PowerCallsOnOrOff : Prop :=
  ∀ (s : State) (r p : List Byte) (v : Byte), PacketWaits s 0xA9 → PayloadIs s (v :: p) →
    BothAnswer (.dispPoll r) .displayPower s
      { answeredEmpty s 0xA9 with outputs := s.outputs ++ [.call (if v = 0 then .powerOff else .powerOn)] }

/-- R156: DISPLAY_BRIGHTNESS passes the level through unchanged. -/
def Obligations.BrightnessPassesLevel : Prop :=
  ∀ (s : State) (r p : List Byte) (v : Byte), PacketWaits s 0xBA → PayloadIs s (v :: p) →
    BothAnswer (.dispPoll r) .displayBrightness s
      { answeredEmpty s 0xBA with outputs := s.outputs ++ [.call (.setBrightness v)] }

/-- R157: BUS_WRITE passes the address and all further payload bytes, possibly none, to the bus driver. -/
def Obligations.BusWritePassesData : Prop :=
  ∀ (s : State) (r data : List Byte) (addr : Byte), PacketWaits s 0x9A → PayloadIs s (addr :: data) →
    BothAnswer (.dispPoll r) .busWrite s
      { answeredEmpty s 0x9A with outputs := s.outputs ++ [.call (.busWrite addr data)] }

/-- R158: BUS_READ calls the bus driver with the address and the count, stores the first `count` bytes of the draw in
`resp_buf` and answers with them; a draw that is too short is refused (U5). Every other byte of RESPBUF reads as
before. -/
def Obligations.BusReadReturnsDraw : Prop :=
  ∀ (s : State) (r p : List Byte) (addr count : Byte), PacketWaits s 0x9B → PayloadIs s (addr :: count :: p) →
    (count.toNat ≤ r.length →
      ∃ t, BothAnswer (.dispPoll r) (.busRead r) s t ∧
        t = { s with pkt := { s.pkt with pending := false }, respLen := count, respBuf := t.respBuf,
                     tx := loadedTx 0x9B count.toNat, outputs := s.outputs ++ [.call (.busRead addr count)] } ∧
        (∀ i, i < count.toNat → t.respBuf.read i = r[i]?) ∧
        (∀ i, count.toNat ≤ i → t.respBuf.read i = s.respBuf.read i)) ∧
    (r.length < count.toNat →
      exec (.dispPoll r) s = .refused .busReadShort ∧ exec (.busRead r) s = .refused .busReadShort)

/-- R160: a payload shorter than the least count of its command makes no driver call and is answered with an empty
payload; the drop is traced. -/
def Obligations.ShortPayloadIsAnswered : Prop :=
  ∀ (s : State) (r : List Byte) (c : Byte) (least : Nat) (i : Instr),
    (c, least, i) ∈ [((0xDE : Byte), 1024, Instr.displayFlush), (0xA9, 1, .displayPower), (0xBA, 1, .displayBrightness),
      (0x9A, 1, .busWrite), (0x9B, 2, .busRead r)] →
    PacketWaits s c → s.pkt.len.toNat < least →
    BothAnswer (.dispPoll r) i s { answeredEmpty s c with drops := s.drops ++ [.shortPayload] }

/-- R159: with an IR event pending and no packet, the poll copies its two bytes to `resp_buf`, clears the flag and
loads the sender with code `0xDA`. Every other byte of RESPBUF reads as before. -/
def Obligations.RemoteButtonIsSent : Prop :=
  ∀ (s : State) (r : List Byte), s.tx.state = .idle → s.pkt.pending = false → s.irBox.pending = true →
    ∃ t, BothAnswer (.dispPoll r) .remoteButton s t ∧
      t = { s with irBox := { s.irBox with pending := false }, respLen := 2, respBuf := t.respBuf,
                   tx := loadedTx 0xDA 2 } ∧
      t.respBuf.read 0 = some s.irBox.addr ∧ t.respBuf.read 1 = some s.irBox.cmd ∧
      ∀ i, 2 ≤ i → t.respBuf.read i = s.respBuf.read i

/-- R161: a packet whose code is none of the six request codes (`0xDA` among them) is consumed without call and
without response. -/
def Obligations.UnknownCommandIsDropped : Prop :=
  ∀ (s : State) (r : List Byte) (c : Byte), PacketWaits s c → c ∉ [(0x00 : Byte), 0xDE, 0xA9, 0xBA, 0x9A, 0x9B] →
    BothAnswer (.dispPoll r) (.unknownCommand c) s
      { s with pkt := { s.pkt with pending := false }, drops := s.drops ++ [.unknownCommand] }

/-- The dispatcher's columns of R32. DISP.POLL writes the sender's registers, `resp_len`, RESPBUF below the new
`resp_len`, clears mailbox flags and never sets one, and changes no field of a mailbox, no byte of RXBUF and no register
of RX, TICK or IR. A pending packet is taken before an IR event, which then waits (R150). It reads the two mailboxes,
`tx_state` and `rx_buf` at indices 1 to `pkt_len` (and the configuration): in any state `u` that agrees with `s` on
these it makes the same call and writes the same values, whatever else `u` holds. -/
def Obligations.PollKeepsToItsColumns : Prop :=
  ∀ (s t u : State) (r : List Byte), exec (.dispPoll r) s = .next t →
    (t.rx = s.rx ∧ t.tick = s.tick ∧ t.ir = s.ir ∧ t.cfg = s.cfg ∧ t.events = s.events ∧ t.faultSeen = s.faultSeen ∧
      t.pkt.cmd = s.pkt.cmd ∧ t.pkt.len = s.pkt.len ∧ t.irBox.addr = s.irBox.addr ∧ t.irBox.cmd = s.irBox.cmd ∧
      (t.pkt.pending = true → s.pkt.pending = true) ∧ (t.irBox.pending = true → s.irBox.pending = true) ∧
      (s.tx.state = .idle → s.pkt.pending = true → t.pkt.pending = false ∧ t.irBox = s.irBox) ∧
      (∀ i, t.rxBuf.read i = s.rxBuf.read i) ∧
      (∀ i, t.respLen.toNat ≤ i → t.respBuf.read i = s.respBuf.read i)) ∧
    (u.cfg = s.cfg → u.pkt = s.pkt → u.irBox = s.irBox → u.tx.state = s.tx.state →
      (∀ i, 1 ≤ i → i ≤ s.pkt.len.toNat → u.rxBuf.rxByte i = s.rxBuf.rxByte i) →
      ∃ v os ds, exec (.dispPoll r) u = .next v ∧ v.pkt = t.pkt ∧ v.irBox = t.irBox ∧
        v.outputs = u.outputs ++ os ∧ t.outputs = s.outputs ++ os ∧ v.drops = u.drops ++ ds ∧ t.drops = s.drops ++ ds ∧
        (v.respLen = t.respLen ∧ v.tx = t.tx ∧ (∀ i, i < t.respLen.toNat → v.respBuf.read i = t.respBuf.read i) ∨
         (v.respLen = u.respLen ∧ v.tx = u.tx ∧ v.respBuf = u.respBuf) ∧
         (t.respLen = s.respLen ∧ t.tx = s.tx ∧ t.respBuf = s.respBuf)))

/-! ### Events that are not enabled, rows that are not selected -/

/-- R72: `TXRDY` with nothing to send and `POLL` while a frame is being sent do nothing (log entry 5); a poll with both
mailbox flags clear does nothing (R150); an edge to the
present line state is refused (R14, R72, U6; log entry 6). -/
def Obligations.EventsNotEnabled : Prop :=
  ∀ (s : State) (r : List Byte),
    (s.tx.state = .idle → exec .txByte s = .next s) ∧
    (s.tx.state ≠ .idle → exec (.dispPoll r) s = .next s) ∧
    (s.pkt.pending = false → s.irBox.pending = false → exec (.dispPoll r) s = .next s) ∧
    exec (.irEdge s.ir.level) s = .refused .edgeNotEnabled

/-- A row that names a case of an operation is refused by name where the state does not meet the row's whole selecting
condition (the model's choice; log entry 3 lists the conditions). -/
def Obligations.UnselectedRowsRefused : Prop :=
  ∀ (s : State) (b c : Byte) (l : Level) (r : List Byte),
    (∀ p ∈ [(RxState.scanningSync, Instr.rxScanningSync b), (.lengthLow, .rxLengthLow b), (.lengthHigh, .rxLengthHigh b),
        (.readingData, .rxReadingData b), (.readingChecksum, .rxReadingChecksum b)],
      ¬ (s.rx.state = p.1 ∧ ¬ CompletesSync s.rx.syncCnt b) → exec p.2 s = .refused .notSelected) ∧
    (¬ (s.rx.state = .readingChecksum ∧ ¬ CompletesSync s.rx.syncCnt b ∧ b = s.rx.chk) →
      exec (.rxEmitPacket b) s = .refused .notSelected) ∧
    (¬ CompletesSync s.rx.syncCnt b → exec (.rxSyncOverride b) s = .refused .notSelected) ∧
    (CompletesSync s.rx.syncCnt b → exec (.rxSyncMatchStep b) s = .refused .notSelected) ∧
    (∀ p ∈ [(TxState.sync, Instr.txSync), (.lenLo, .txLenLo), (.lenHi, .txLenHi), (.cmd, .txCmd),
        (.payload, .txPayload), (.chk, .txChk)],
      s.tx.state ≠ p.1 → exec p.2 s = .refused .notSelected) ∧
    (∀ p ∈ [(IrPhase.idle, Instr.irIdle l), (.leadMark, .irLeadMark l), (.leadSpace, .irLeadSpace l),
        (.bitMark, .irBitMark l), (.bitSpace, .irBitSpace l)],
      ¬ (l ≠ s.ir.level ∧ s.ir.phase = p.1) → exec p.2 s = .refused .notSelected) ∧
    (¬ (l ≠ s.ir.level ∧ s.ir.phase = .bitMark ∧ l = .space ∧ InWindow s.tick.cnt s.cfg.tBitMark ∧
        s.ir.lastMark = true) →
      exec (.irFinish l) s = .refused .notSelected) ∧
    (¬ (l ≠ s.ir.level ∧ s.ir.phase = .leadSpace ∧ l = .mark ∧ ¬ InWindow s.tick.cnt s.cfg.tLeadSpace ∧
        InWindow s.tick.cnt s.cfg.tRepeatSpace) →
      exec (.irRepeatCode l) s = .refused .notSelected) ∧
    (¬ AbortsAttempt s l → exec (.irAbort l) s = .refused .notSelected) ∧
    (∀ p ∈ [((0x00 : Byte), Instr.nop), (0xDE, .displayFlush), (0xA9, .displayPower), (0xBA, .displayBrightness),
        (0x9A, .busWrite), (0x9B, .busRead r)],
      ¬ PacketWaits s p.1 → exec p.2 s = .refused .notSelected) ∧
    (¬ (PacketWaits s c ∧ c ∉ [(0x00 : Byte), 0xDE, 0xA9, 0xBA, 0x9A, 0x9B]) →
      exec (.unknownCommand c) s = .refused .notSelected) ∧
    (¬ (s.tx.state = .idle ∧ s.pkt.pending = false ∧ s.irBox.pending = true) →
      exec .remoteButton s = .refused .notSelected)

/-! ### Formats as scripts -/

/-- R73: FRAME, IRWORD and IRREPEAT stand for their events, which they put in front of the events still to come;
nothing else changes. FRAME of more than 65534 payload bytes is refused. (That an abbreviation is a step of its own is
the model's choice, log entry 8; that FRAME's checksum leaves the length bytes out with `CHK_COVERS_LEN = false` is its
reading, log entry 24.) DRAIN is TXRDY repeated until the sender is idle: from every state that meets the
invariant its script ends with the sender idle, and no shorter part of it does. -/
def Obligations.FormatsExpandToEvents : Prop :=
  ∀ (s : State) (c : Byte) (p : List Byte) (w : Word) (d : Nat),
    (p.length ≤ 65534 → exec (.wireFrame c p) s = .next
      { s with events := encodeAll (([0x91, 0xEB, 0xFA, 0x58] ++ frameBody s.cfg c p).map .rxByte) ++ s.events }) ∧
    (65534 < p.length → exec (.wireFrame c p) s = .refused .payloadTooLong) ∧
    exec (.irFrame w) s = .next
      { s with events := encodeAll (timedFrame s.cfg.tLeadMark s.cfg.tLeadSpace (List.replicate 32 s.cfg.tBitMark)
          ((List.range 32).map fun k => if w.getLsbD (31 - k) = true then s.cfg.tOneSpace else s.cfg.tZeroSpace)
          s.cfg.tBitMark ++ [.irEdge .space]) ++ s.events } ∧
    exec (.irRepeat d) s = .next
      { s with events := encodeAll (markScript s.cfg.tLeadMark ++ spaceScript s.cfg.tRepeatSpace ++
          markScript d ++ [.irEdge .space]) ++ s.events } ∧
    (s.Inv → ∃ (n : Nat) (t : State), drainScript s.tx = List.replicate n .txByte ∧
      execAll (drainScript s.tx) s = .next t ∧ t.tx.state = .idle ∧
      ∀ k u, k < n → execAll (List.replicate k .txByte) s = .next u → u.tx.state ≠ .idle)

/-- Stepping through the encoded events of a script is the execution of the script, one operation a step (R6, R72; the
stream is the model's, log entry 1). -/
def Obligations.StreamRunsScript : Prop :=
  ∀ (is : List Instr) (s : State) (rest : List Byte), (∀ i ∈ is, isEventRow i = true ∧ i.wf = true) →
    Sys2Proof.core.run is.length { s with events := encodeAll is ++ rest } = execAll is { s with events := rest }

/-! ### What holds of every instruction and every run -/

/-- R34, with R45 and R46: every step keeps the invariant. R34 item 9 asks besides that what is being sent is the
response (`SendsResponse`): every step keeps that too, but for a TX.START whose `n` is not `resp_len`, which is not as
R101's Operands line has it (log entry 7). -/
def Obligations.StepKeepsInvariant : Prop :=
  ∀ s t : State, s.Inv → step s = .next t →
    t.Inv ∧
    (s.SendsResponse → (∀ c n rest, decode s.events = .ok (.txStart c n, rest) → n.toNat = s.respLen.toNat) →
      t.SendsResponse)

/-- The invariant, with R34 item 9 whole, holds after reset, and after power-up with any bytes in the two arrays, as
many as they hold (R211). -/
def Obligations.ResetMeetsInvariant : Prop :=
  State.reset.Inv ∧ State.reset.SendsResponse ∧
  ∀ rx resp : List Byte, rx.length ≤ State.reset.cfg.rxBufCap → resp.length ≤ Config.respBufCap →
    (State.powerUp rx resp).Inv ∧ (State.powerUp rx resp).SendsResponse

/-- R45, R183: in a state that meets the invariant no step faults: no index is out of range and no reserved register
value is met. With R34 item 9 besides, a payload byte that TX.BYTE reads is one that has been written (R46), so that the
free value of an unwritten byte (log entry 10) is not read. -/
def Obligations.InvariantRulesOutFaults : Prop :=
  ∀ (s : State) (f : Fault), s.Inv →
    step s ≠ .fault f ∧
    (s.SendsResponse → s.tx.state = .payload → (s.respBuf.read s.tx.idx.toNat).isSome = true)

/-- R220: the sticky mark is set only by a data byte stored while a packet is pending, and cleared only by RESET. -/
def Obligations.FaultMarkIsSticky : Prop :=
  ∀ (i : Instr) (s t : State), exec i s = .next t →
    (s.faultSeen = false → t.faultSeen = true →
      s.pkt.pending = true ∧ s.rx.state = .readingData ∧ ∃ b, i = .rxByte b ∨ i = .rxReadingData b) ∧
    (s.faultSeen = true → t.faultSeen = false → i = .reset)

/-- R51, R52: among the events only RX.BYTE sets `pkt_pending`, and only IR.EDGE sets `ir_pending`; only DISP.POLL
clears them, RESET aside; the mailbox fields change only with the flag's setting or at RESET. -/
def Obligations.MailboxFlagDiscipline : Prop :=
  ∀ (i : Instr) (s t : State), isEventRow i = true → exec i s = .next t →
    (s.pkt.pending = false → t.pkt.pending = true → ∃ b, i = .rxByte b ∧ s.rx.state = .readingChecksum ∧ b = s.rx.chk) ∧
    (s.pkt.pending = true → t.pkt.pending = false → i = .reset ∨ ∃ r, i = .dispPoll r) ∧
    (s.irBox.pending = false → t.irBox.pending = true → ∃ l, i = .irEdge l) ∧
    (s.irBox.pending = true → t.irBox.pending = false → i = .reset ∨ ∃ r, i = .dispPoll r) ∧
    ((t.pkt.cmd, t.pkt.len) ≠ (s.pkt.cmd, s.pkt.len) → i = .reset ∨ t.pkt.pending = true ∧ ∃ b, i = .rxByte b) ∧
    ((t.irBox.addr, t.irBox.cmd) ≠ (s.irBox.addr, s.irBox.cmd) →
      i = .reset ∨ t.irBox.pending = true ∧ ∃ l, i = .irEdge l)

/-- The columns of R32 for TX, TICK and IR: TX.BYTE writes the sender's registers only, TICK.PULSE `tick_cnt` only,
IR.EDGE its own registers, the tick source and the IR mailbox (whose flag it never clears). TX.BYTE reads the sender's
registers and `resp_buf[tx_idx]`, TICK.PULSE the tick source, IR.EDGE its own registers and `tick_cnt` (and each the
configuration). For TX.BYTE this is narrower than R32's table: that it reads `tx_len` and not `resp_len`, and writes
`tx_state`, `tx_idx` and `tx_chk` but neither `tx_len` nor `tx_cmd`, is R103 (log entry 23). In any state `u` that agrees
with `s` on these each writes the same values, whatever else `u` holds. Outputs, drops and the event stream are the
model's records. -/
def Obligations.TxTickIrKeepToTheirColumns : Prop :=
  ∀ (s t u : State) (l : Level), u.cfg = s.cfg →
    (exec .txByte s = .next t →
      (t = { s with tx := t.tx, outputs := t.outputs } ∧ t.tx.len = s.tx.len ∧ t.tx.cmd = s.tx.cmd ∧ SameBuffers s t) ∧
      (u.tx = s.tx → u.respBuf.respByte s.tx.idx.toNat = s.respBuf.respByte s.tx.idx.toNat →
        ∃ v os, exec .txByte u = .next v ∧ v.tx = t.tx ∧ v.outputs = u.outputs ++ os ∧ t.outputs = s.outputs ++ os)) ∧
    (exec .tickPulse s = .next t →
      (t = { s with tick := t.tick } ∧ t.tick.en = s.tick.en ∧ SameBuffers s t) ∧
      (u.tick = s.tick → ∃ v, exec .tickPulse u = .next v ∧ v.tick = t.tick)) ∧
    (exec (.irEdge l) s = .next t →
      (t = { s with ir := t.ir, tick := t.tick, irBox := t.irBox, drops := t.drops } ∧ t.ir.level = l ∧
        t.tick.cnt = 0 ∧ (s.irBox.pending = true → t.irBox.pending = true) ∧ SameBuffers s t) ∧
      (u.ir = s.ir → u.tick.cnt = s.tick.cnt →
        ∃ v ds, exec (.irEdge l) u = .next v ∧ v.ir = t.ir ∧ v.tick.cnt = t.tick.cnt ∧
          (v.tick.en = t.tick.en ∨ v.tick.en = u.tick.en ∧ t.tick.en = s.tick.en) ∧
          (v.irBox = t.irBox ∧ t.irBox.pending = true ∨ v.irBox = u.irBox ∧ t.irBox = s.irBox) ∧
          v.drops = u.drops ++ ds ∧ t.drops = s.drops ++ ds))

/-- R5, R192, R152: no instruction changes the configuration; each appends at most one drop to the trace and at most
one output (one byte or one driver call). -/
def Obligations.OneDropOneOutputAtMost : Prop :=
  ∀ (i : Instr) (s t : State), exec i s = .next t →
    t.cfg = s.cfg ∧ (t.drops = s.drops ∨ ∃ d, t.drops = s.drops ++ [d]) ∧
    (t.outputs = s.outputs ∨ ∃ o, t.outputs = s.outputs ++ [o])

/-- R190: two operations of different units that share no state commute: either order gives the same state and the same
outputs (the drop trace, which the hardware does not have, aside). -/
def Obligations.IndependentUnitsCommute : Prop :=
  ∀ (s s1 s2 : State) (b : Byte) (l : Level) (r : List Byte) (i j : Instr),
    (i, j) ∈ [(Instr.rxByte b, Instr.txByte), (.rxByte b, .tickPulse), (.rxByte b, .irEdge l), (.txByte, .tickPulse),
      (.txByte, .irEdge l), (.tickPulse, .dispPoll r)] →
    exec i s = .next s1 → exec j s = .next s2 →
    ∃ t1 t2, exec j s1 = .next t1 ∧ exec i s2 = .next t2 ∧ SameButDrops t1 t2

/-- R191, R210: reset overrides the other events of its cycle; else a cycle performs exactly the events its pins carry,
in the order tick, edge (if the line state `l` differs, R14), byte received, byte transferred (with `tx_valid`, R12),
poll. The driver port carries exactly the call that this cycle makes (R15, R152). -/
def Obligations.CycleOrdersCoincidentEvents : Prop :=
  ∀ (s : State) (pins : Pins) (l : Level), (l = .mark ↔ pins.irIn = s.cfg.irMarkLevel) →
    (pins.rst = true → cycle pins s = exec .reset s ∧ drvReq pins s = false) ∧
    (pins.rst = false →
      cycle pins s = execAll ((if pins.tickPulse = true then [.tickPulse] else []) ++
        (if l = s.ir.level then [] else [.irEdge l]) ++ pins.rx.toList.map .rxByte ++
        (if s.tx.state ≠ .idle ∧ pins.txReady = true then [.txByte] else []) ++ pins.poll.toList.map .dispPoll) s ∧
      ∀ t, cycle pins s = .next t →
        (drvReq pins s = true ↔ ∃ c, drvPort pins s = some c) ∧
        ∀ c, drvPort pins s = some c ↔ Output.call c ∈ t.outputs.drop s.outputs.length)
end

