-- ==== Sys2Proof/Laws/Memory.lean ====
section
/-! SUPPORT. The laws of the byte arrays: a read after a write, and the canonical form. -/

namespace Sys2Proof.Machine.Memory

theorem read_write_same (m : Memory) (i : Nat) (v : Byte) : (m.write i v).read i = some v := by
  induction m with
  | nil => simp [write, read]
  | cons x m ih =>
    obtain ⟨a, w⟩ := x
    simp only [write]
    split
    · simp [read]
    · split
      · simp [read]
      · simp_all [read]

theorem read_write_other (m : Memory) {i j : Nat} (v : Byte) (h : j ≠ i) : (m.write i v).read j = m.read j := by
  induction m with
  | nil => simp [write, read, h]
  | cons x m ih =>
    obtain ⟨a, w⟩ := x
    simp only [write]
    split
    · simp [read, h]
    · split
      · simp_all [read]
      · simp_all [read]

/-- What a write can do to a read, in one equation. -/
theorem read_write (m : Memory) (i j : Nat) (v : Byte) :
    (m.write i v).read j = if j = i then some v else m.read j := by
  split
  · subst j; exact read_write_same m i v
  · exact read_write_other m v ‹_›

/-- What storing a byte sequence can do to a read. -/
theorem read_writeAll (vs : List Byte) (m : Memory) (i j : Nat) :
    (m.writeAll i vs).read j = if i ≤ j ∧ j < i + vs.length then vs[j - i]? else m.read j := by
  induction vs generalizing m i with
  | nil => simp [writeAll]
  | cons v vs ih =>
    simp only [writeAll, ih, read_write, List.length_cons]
    by_cases h1 : j = i
    · subst h1; simp
    · by_cases h2 : i + 1 ≤ j ∧ j < i + 1 + vs.length
      · have : j - i = (j - (i + 1)) + 1 := by omega
        rw [if_pos h2, if_pos (by omega), this, List.getElem?_cons_succ]
      · rw [if_neg h2, if_neg h1, if_neg (by omega)]

theorem write_risesFrom (m : Memory) {a i : Nat} (v : Byte) (h : risesFrom a m = true) (ha : a < i) :
    risesFrom a (m.write i v) = true := by
  induction m generalizing a with
  | nil => simp [write, risesFrom, ha]
  | cons x m ih =>
    obtain ⟨b, w⟩ := x
    simp only [risesFrom, Bool.and_eq_true, decide_eq_true_eq] at h
    simp only [write]
    split
    · simp [risesFrom, ha, h.2]; omega
    · split
      · subst i; simp [risesFrom, ha, h.2]
      · simp only [risesFrom, Bool.and_eq_true, decide_eq_true_eq]
        exact ⟨h.1, ih h.2 (by omega)⟩

/-- A write keeps the canonical form. -/
theorem write_wf (m : Memory) (i : Nat) (v : Byte) (h : m.wf = true) : (m.write i v).wf = true := by
  cases m with
  | nil => simp [write, wf, risesFrom]
  | cons x m =>
    obtain ⟨a, w⟩ := x
    simp only [wf] at h
    simp only [write]
    split
    · simp [wf, risesFrom, h]; omega
    · split
      · subst i; simpa [wf] using h
      · exact write_risesFrom m v h (by omega)

/-- Storing a byte sequence keeps the canonical form. -/
theorem writeAll_wf (vs : List Byte) (m : Memory) (i : Nat) (h : m.wf = true) : (m.writeAll i vs).wf = true := by
  induction vs generalizing m i with
  | nil => simpa [writeAll] using h
  | cons v vs ih => exact ih _ _ (write_wf m i v h)

/-- Nothing is listed at or below a bound that the listed indices rise from. -/
theorem read_below_risesFrom (m : Memory) {a i : Nat} (h : risesFrom a m = true) (hi : i ≤ a) : m.read i = none := by
  induction m generalizing a with
  | nil => rfl
  | cons x m ih =>
    obtain ⟨b, w⟩ := x
    simp only [risesFrom, Bool.and_eq_true, decide_eq_true_eq] at h
    simp only [read, if_neg (show ¬ i = b by omega)]
    exact ih h.2 (by omega)

theorem wf_of_risesFrom {a : Nat} {m : Memory} (h : risesFrom a m = true) : m.wf = true := by
  cases m with
  | nil => rfl
  | cons x m => simp_all [risesFrom, wf]

/-- Canonical memories that read alike are equal: equality of states is equality of contents. -/
theorem ext_of_wf {m n : Memory} (hm : m.wf = true) (hn : n.wf = true) (h : ∀ i, m.read i = n.read i) : m = n := by
  induction m generalizing n with
  | nil =>
    cases n with
    | nil => rfl
    | cons y n => obtain ⟨b, w⟩ := y; simpa [read] using h b
  | cons x m ih =>
    obtain ⟨a, v⟩ := x
    cases n with
    | nil => simpa [read] using h a
    | cons y n =>
      obtain ⟨b, w⟩ := y
      simp only [wf] at hm hn
      have hab : a = b := by
        have ha := h a
        have hb := h b
        simp only [read, if_true] at ha hb
        by_contra hne
        rw [if_neg hne] at ha
        rw [if_neg (Ne.symm hne)] at hb
        rcases Nat.lt_or_gt_of_ne hne with hlt | hlt
        · rw [read_below_risesFrom n hn (by omega)] at ha; cases ha
        · rw [read_below_risesFrom m hm (by omega)] at hb; cases hb
      subst hab
      have hvw : v = w := by simpa [read] using h a
      subst hvw
      refine congrArg _ (ih (wf_of_risesFrom hm) (wf_of_risesFrom hn) fun i => ?_)
      by_cases hi : i = a
      · subst hi; rw [read_below_risesFrom m hm (by omega), read_below_risesFrom n hn (by omega)]
      · simpa [read, hi] using h i

/-- What a window shows of an array (R32: the columns of an operation). -/
theorem read_window (m : Memory) (lo hi i : Nat) :
    (m.window lo hi).read i = if lo ≤ i ∧ i ≤ hi then m.read i else none := by
  induction m with
  | nil => simp [window, read]
  | cons x m ih =>
    obtain ⟨a, v⟩ := x
    simp only [window]
    split
    · rename_i h
      simp only [read, ih]
      by_cases hi' : i = a
      · subst hi'; simp [h]
      · simp [hi']
    · rename_i h
      rw [ih]
      by_cases hi' : i = a
      · subst hi'; simp [h]
      · simp [read, hi']

/-- What an array of given first bytes reads as. -/
theorem rxByte_window (m : Memory) {lo hi i : Nat} (h : lo ≤ i ∧ i ≤ hi) : (m.window lo hi).rxByte i = m.rxByte i := by
  rw [rxByte, rxByte, read_window, if_pos h]

theorem rxByte_of_read {m : Memory} {i : Nat} {v : Byte} (h : m.read i = some v) : m.rxByte i = v := by
  rw [rxByte, h, Option.getD_some]

theorem respByte_of_read {m : Memory} {i : Nat} {v : Byte} (h : m.read i = some v) : m.respByte i = v := by
  rw [respByte, h, Option.getD_some]

theorem read_ofBytes (vs : List Byte) (i : Nat) : (ofBytes vs).read i = vs[i]? := by
  rw [ofBytes, read_writeAll]
  split
  · rfl
  · rw [List.getElem?_eq_none (by omega)]; rfl

/-- Such an array is in canonical form. -/
theorem ofBytes_wf (vs : List Byte) : (ofBytes vs).wf = true := writeAll_wf vs [] 0 rfl

end Sys2Proof.Machine.Memory
end

