-- ==== Sys2Proof/Laws/State.lean ====
section
/-! SUPPORT. What each named update of the state, or of an operation's columns, leaves in each field: one lemma per
field per update; what an operation takes of the state. -/

namespace Sys2Proof.Machine

namespace State

@[simp] theorem putRx_rx (s : State) (c : RxColumns) : (s.putRx c).rx = c.rx := rfl
@[simp] theorem putRx_pkt (s : State) (c : RxColumns) : (s.putRx c).pkt = fillPacket s.pkt c.packet := rfl
@[simp] theorem putRx_tx (s : State) (c : RxColumns) : (s.putRx c).tx = s.tx := rfl
@[simp] theorem putRx_tick (s : State) (c : RxColumns) : (s.putRx c).tick = s.tick := rfl
@[simp] theorem putRx_ir (s : State) (c : RxColumns) : (s.putRx c).ir = s.ir := rfl
@[simp] theorem putRx_irBox (s : State) (c : RxColumns) : (s.putRx c).irBox = s.irBox := rfl
@[simp] theorem putRx_rxBuf (s : State) (c : RxColumns) : (s.putRx c).rxBuf = storeByte s.rxBuf c.store := rfl
@[simp] theorem putRx_respBuf (s : State) (c : RxColumns) : (s.putRx c).respBuf = s.respBuf := rfl
@[simp] theorem putRx_respLen (s : State) (c : RxColumns) : (s.putRx c).respLen = s.respLen := rfl
@[simp] theorem putRx_cfg (s : State) (c : RxColumns) : (s.putRx c).cfg = s.cfg := rfl
@[simp] theorem putRx_events (s : State) (c : RxColumns) : (s.putRx c).events = s.events := rfl
@[simp] theorem putRx_outputs (s : State) (c : RxColumns) : (s.putRx c).outputs = s.outputs := rfl
@[simp] theorem putRx_drops (s : State) (c : RxColumns) : (s.putRx c).drops = addDrop s.drops c.dropped := rfl
@[simp] theorem putRx_faultSeen (s : State) (c : RxColumns) : (s.putRx c).faultSeen = s.hostFault c.store := rfl

@[simp] theorem putTx_rx (s : State) (c : TxColumns) : (s.putTx c).rx = s.rx := rfl
@[simp] theorem putTx_pkt (s : State) (c : TxColumns) : (s.putTx c).pkt = s.pkt := rfl
@[simp] theorem putTx_tx (s : State) (c : TxColumns) :
    (s.putTx c).tx = { s.tx with state := c.tx.state, idx := c.tx.idx, chk := c.tx.chk } := rfl
@[simp] theorem putTx_tick (s : State) (c : TxColumns) : (s.putTx c).tick = s.tick := rfl
@[simp] theorem putTx_ir (s : State) (c : TxColumns) : (s.putTx c).ir = s.ir := rfl
@[simp] theorem putTx_irBox (s : State) (c : TxColumns) : (s.putTx c).irBox = s.irBox := rfl
@[simp] theorem putTx_rxBuf (s : State) (c : TxColumns) : (s.putTx c).rxBuf = s.rxBuf := rfl
@[simp] theorem putTx_respBuf (s : State) (c : TxColumns) : (s.putTx c).respBuf = s.respBuf := rfl
@[simp] theorem putTx_respLen (s : State) (c : TxColumns) : (s.putTx c).respLen = s.respLen := rfl
@[simp] theorem putTx_cfg (s : State) (c : TxColumns) : (s.putTx c).cfg = s.cfg := rfl
@[simp] theorem putTx_events (s : State) (c : TxColumns) : (s.putTx c).events = s.events := rfl
@[simp] theorem putTx_outputs (s : State) (c : TxColumns) :
    (s.putTx c).outputs = addOutput s.outputs (c.sent.map .tx) := rfl
@[simp] theorem putTx_drops (s : State) (c : TxColumns) : (s.putTx c).drops = s.drops := rfl
@[simp] theorem putTx_faultSeen (s : State) (c : TxColumns) : (s.putTx c).faultSeen = s.faultSeen := rfl

@[simp] theorem putTick_rx (s : State) (c : TickColumns) : (s.putTick c).rx = s.rx := rfl
@[simp] theorem putTick_pkt (s : State) (c : TickColumns) : (s.putTick c).pkt = s.pkt := rfl
@[simp] theorem putTick_tx (s : State) (c : TickColumns) : (s.putTick c).tx = s.tx := rfl
@[simp] theorem putTick_tick (s : State) (c : TickColumns) : (s.putTick c).tick = { s.tick with cnt := c.cnt } := rfl
@[simp] theorem putTick_ir (s : State) (c : TickColumns) : (s.putTick c).ir = s.ir := rfl
@[simp] theorem putTick_irBox (s : State) (c : TickColumns) : (s.putTick c).irBox = s.irBox := rfl
@[simp] theorem putTick_rxBuf (s : State) (c : TickColumns) : (s.putTick c).rxBuf = s.rxBuf := rfl
@[simp] theorem putTick_respBuf (s : State) (c : TickColumns) : (s.putTick c).respBuf = s.respBuf := rfl
@[simp] theorem putTick_respLen (s : State) (c : TickColumns) : (s.putTick c).respLen = s.respLen := rfl
@[simp] theorem putTick_cfg (s : State) (c : TickColumns) : (s.putTick c).cfg = s.cfg := rfl
@[simp] theorem putTick_events (s : State) (c : TickColumns) : (s.putTick c).events = s.events := rfl
@[simp] theorem putTick_outputs (s : State) (c : TickColumns) : (s.putTick c).outputs = s.outputs := rfl
@[simp] theorem putTick_drops (s : State) (c : TickColumns) : (s.putTick c).drops = s.drops := rfl
@[simp] theorem putTick_faultSeen (s : State) (c : TickColumns) : (s.putTick c).faultSeen = s.faultSeen := rfl

@[simp] theorem putIr_rx (s : State) (c : IrColumns) : (s.putIr c).rx = s.rx := rfl
@[simp] theorem putIr_pkt (s : State) (c : IrColumns) : (s.putIr c).pkt = s.pkt := rfl
@[simp] theorem putIr_tx (s : State) (c : IrColumns) : (s.putIr c).tx = s.tx := rfl
@[simp] theorem putIr_tick (s : State) (c : IrColumns) :
    (s.putIr c).tick = { en := c.tickEn.getD s.tick.en, cnt := c.cnt } := rfl
@[simp] theorem putIr_ir (s : State) (c : IrColumns) : (s.putIr c).ir = c.ir := rfl
@[simp] theorem putIr_irBox (s : State) (c : IrColumns) : (s.putIr c).irBox = fillButton s.irBox c.button := rfl
@[simp] theorem putIr_rxBuf (s : State) (c : IrColumns) : (s.putIr c).rxBuf = s.rxBuf := rfl
@[simp] theorem putIr_respBuf (s : State) (c : IrColumns) : (s.putIr c).respBuf = s.respBuf := rfl
@[simp] theorem putIr_respLen (s : State) (c : IrColumns) : (s.putIr c).respLen = s.respLen := rfl
@[simp] theorem putIr_cfg (s : State) (c : IrColumns) : (s.putIr c).cfg = s.cfg := rfl
@[simp] theorem putIr_events (s : State) (c : IrColumns) : (s.putIr c).events = s.events := rfl
@[simp] theorem putIr_outputs (s : State) (c : IrColumns) : (s.putIr c).outputs = s.outputs := rfl
@[simp] theorem putIr_drops (s : State) (c : IrColumns) : (s.putIr c).drops = addDrop s.drops c.dropped := rfl
@[simp] theorem putIr_faultSeen (s : State) (c : IrColumns) : (s.putIr c).faultSeen = s.faultSeen := rfl

@[simp] theorem putDisp_rx (s : State) (c : DispColumns) : (s.putDisp c).rx = s.rx := by
  unfold State.putDisp State.respond; split <;> rfl
@[simp] theorem putDisp_pkt (s : State) (c : DispColumns) :
    (s.putDisp c).pkt = { s.pkt with pending := if c.packetDone then false else s.pkt.pending } := rfl
@[simp] theorem putDisp_tx (s : State) (c : DispColumns) : (s.putDisp c).tx = (s.respond c.response).tx := rfl
@[simp] theorem putDisp_tick (s : State) (c : DispColumns) : (s.putDisp c).tick = s.tick := by
  unfold State.putDisp State.respond; split <;> rfl
@[simp] theorem putDisp_ir (s : State) (c : DispColumns) : (s.putDisp c).ir = s.ir := by
  unfold State.putDisp State.respond; split <;> rfl
@[simp] theorem putDisp_irBox (s : State) (c : DispColumns) :
    (s.putDisp c).irBox = { s.irBox with pending := if c.eventDone then false else s.irBox.pending } := rfl
@[simp] theorem putDisp_rxBuf (s : State) (c : DispColumns) : (s.putDisp c).rxBuf = s.rxBuf := by
  unfold State.putDisp State.respond; split <;> rfl
@[simp] theorem putDisp_respBuf (s : State) (c : DispColumns) :
    (s.putDisp c).respBuf = (s.respond c.response).respBuf := rfl
@[simp] theorem putDisp_respLen (s : State) (c : DispColumns) :
    (s.putDisp c).respLen = (s.respond c.response).respLen := rfl
@[simp] theorem putDisp_cfg (s : State) (c : DispColumns) : (s.putDisp c).cfg = s.cfg := by
  unfold State.putDisp State.respond; split <;> rfl
@[simp] theorem putDisp_events (s : State) (c : DispColumns) : (s.putDisp c).events = s.events := by
  unfold State.putDisp State.respond; split <;> rfl
@[simp] theorem putDisp_outputs (s : State) (c : DispColumns) :
    (s.putDisp c).outputs = addOutput s.outputs (c.call.map .call) := rfl
@[simp] theorem putDisp_drops (s : State) (c : DispColumns) : (s.putDisp c).drops = addDrop s.drops c.dropped := rfl
@[simp] theorem putDisp_faultSeen (s : State) (c : DispColumns) : (s.putDisp c).faultSeen = s.faultSeen := by
  unfold State.putDisp State.respond; split <;> rfl

@[simp] theorem respond_none (s : State) : s.respond none = s := rfl

@[simp] theorem prepend_rx (s : State) (is : List Instr) : (s.prepend is).rx = s.rx := rfl
@[simp] theorem prepend_pkt (s : State) (is : List Instr) : (s.prepend is).pkt = s.pkt := rfl
@[simp] theorem prepend_tx (s : State) (is : List Instr) : (s.prepend is).tx = s.tx := rfl
@[simp] theorem prepend_tick (s : State) (is : List Instr) : (s.prepend is).tick = s.tick := rfl
@[simp] theorem prepend_ir (s : State) (is : List Instr) : (s.prepend is).ir = s.ir := rfl
@[simp] theorem prepend_irBox (s : State) (is : List Instr) : (s.prepend is).irBox = s.irBox := rfl
@[simp] theorem prepend_rxBuf (s : State) (is : List Instr) : (s.prepend is).rxBuf = s.rxBuf := rfl
@[simp] theorem prepend_respBuf (s : State) (is : List Instr) : (s.prepend is).respBuf = s.respBuf := rfl
@[simp] theorem prepend_respLen (s : State) (is : List Instr) : (s.prepend is).respLen = s.respLen := rfl
@[simp] theorem prepend_cfg (s : State) (is : List Instr) : (s.prepend is).cfg = s.cfg := rfl
@[simp] theorem prepend_events (s : State) (is : List Instr) : (s.prepend is).events = encodeAll is ++ s.events := rfl
@[simp] theorem prepend_outputs (s : State) (is : List Instr) : (s.prepend is).outputs = s.outputs := rfl
@[simp] theorem prepend_drops (s : State) (is : List Instr) : (s.prepend is).drops = s.drops := rfl
@[simp] theorem prepend_faultSeen (s : State) (is : List Instr) : (s.prepend is).faultSeen = s.faultSeen := rfl

@[simp] theorem resetRegs_rx (s : State) :
    s.resetRegs.rx = { state := .scanningSync, syncCnt := 0, len := 0, off := 0, chk := 0 } := rfl
@[simp] theorem resetRegs_pkt (s : State) : s.resetRegs.pkt = { pending := false, cmd := 0, len := 0 } := rfl
@[simp] theorem resetRegs_tx (s : State) :
    s.resetRegs.tx = { state := .idle, idx := 0, len := 0, cmd := 0, chk := 0 } := rfl
@[simp] theorem resetRegs_tick (s : State) : s.resetRegs.tick = { en := false, cnt := 0 } := rfl
@[simp] theorem resetRegs_ir (s : State) : s.resetRegs.ir = State.reset.ir := rfl
@[simp] theorem resetRegs_irBox (s : State) : s.resetRegs.irBox = { pending := false, addr := 0, cmd := 0 } := rfl
@[simp] theorem resetRegs_rxBuf (s : State) : s.resetRegs.rxBuf = s.rxBuf := rfl
@[simp] theorem resetRegs_respBuf (s : State) : s.resetRegs.respBuf = s.respBuf := rfl
@[simp] theorem resetRegs_respLen (s : State) : s.resetRegs.respLen = 0 := rfl
@[simp] theorem resetRegs_cfg (s : State) : s.resetRegs.cfg = s.cfg := rfl
@[simp] theorem resetRegs_events (s : State) : s.resetRegs.events = s.events := rfl
@[simp] theorem resetRegs_outputs (s : State) : s.resetRegs.outputs = s.outputs := rfl
@[simp] theorem resetRegs_drops (s : State) : s.resetRegs.drops = s.drops := rfl
@[simp] theorem resetRegs_faultSeen (s : State) : s.resetRegs.faultSeen = false := rfl

@[simp] theorem rxColumns_cfg (s : State) : s.rxColumns.cfg = s.cfg := rfl
@[simp] theorem rxColumns_rx (s : State) : s.rxColumns.rx = s.rx := rfl
@[simp] theorem rxColumns_first (s : State) : s.rxColumns.first = s.rxBuf.rxByte 0 := rfl
@[simp] theorem rxColumns_store (s : State) : s.rxColumns.store = none := rfl
@[simp] theorem rxColumns_packet (s : State) : s.rxColumns.packet = none := rfl
@[simp] theorem rxColumns_dropped (s : State) : s.rxColumns.dropped = none := rfl

@[simp] theorem txColumns_cfg (s : State) : s.txColumns.cfg = s.cfg := rfl
@[simp] theorem txColumns_tx (s : State) : s.txColumns.tx = s.tx := rfl
@[simp] theorem txColumns_respByte (s : State) : s.txColumns.respByte = s.respBuf.respByte s.tx.idx.toNat := rfl
@[simp] theorem txColumns_sent (s : State) : s.txColumns.sent = none := rfl

@[simp] theorem tickColumns_cfg (s : State) : s.tickColumns.cfg = s.cfg := rfl
@[simp] theorem tickColumns_en (s : State) : s.tickColumns.en = s.tick.en := rfl
@[simp] theorem tickColumns_cnt (s : State) : s.tickColumns.cnt = s.tick.cnt := rfl

@[simp] theorem irColumns_cfg (s : State) : s.irColumns.cfg = s.cfg := rfl
@[simp] theorem irColumns_ir (s : State) : s.irColumns.ir = s.ir := rfl
@[simp] theorem irColumns_cnt (s : State) : s.irColumns.cnt = s.tick.cnt := rfl
@[simp] theorem irColumns_tickEn (s : State) : s.irColumns.tickEn = none := rfl
@[simp] theorem irColumns_button (s : State) : s.irColumns.button = none := rfl
@[simp] theorem irColumns_dropped (s : State) : s.irColumns.dropped = none := rfl

@[simp] theorem dispColumns_cfg (s : State) : s.dispColumns.cfg = s.cfg := rfl
@[simp] theorem dispColumns_txState (s : State) : s.dispColumns.txState = s.tx.state := rfl
@[simp] theorem dispColumns_pkt (s : State) : s.dispColumns.pkt = s.pkt := rfl
@[simp] theorem dispColumns_ptr (s : State) : s.dispColumns.ptr = s.pktPtr := rfl
@[simp] theorem dispColumns_payload (s : State) : s.dispColumns.payload = s.rxBuf.window 1 s.pkt.len.toNat := rfl
@[simp] theorem dispColumns_irBox (s : State) : s.dispColumns.irBox = s.irBox := rfl
@[simp] theorem dispColumns_packetDone (s : State) : s.dispColumns.packetDone = false := rfl
@[simp] theorem dispColumns_eventDone (s : State) : s.dispColumns.eventDone = false := rfl
@[simp] theorem dispColumns_response (s : State) : s.dispColumns.response = none := rfl
@[simp] theorem dispColumns_call (s : State) : s.dispColumns.call = none := rfl
@[simp] theorem dispColumns_dropped (s : State) : s.dispColumns.dropped = none := rfl

end State

namespace RxColumns

@[simp] theorem raise_cfg (c : RxColumns) (d : Drop) : (c.raise d).cfg = c.cfg := rfl
@[simp] theorem raise_rx (c : RxColumns) (d : Drop) : (c.raise d).rx = c.rx := rfl
@[simp] theorem raise_first (c : RxColumns) (d : Drop) : (c.raise d).first = c.first := rfl
@[simp] theorem raise_store (c : RxColumns) (d : Drop) : (c.raise d).store = c.store := rfl
@[simp] theorem raise_packet (c : RxColumns) (d : Drop) : (c.raise d).packet = c.packet := rfl
@[simp] theorem raise_dropped (c : RxColumns) (d : Drop) : (c.raise d).dropped = some d := rfl

@[simp] theorem overrideRegs_cfg (c : RxColumns) : c.overrideRegs.cfg = c.cfg := rfl
@[simp] theorem overrideRegs_rx (c : RxColumns) :
    c.overrideRegs.rx = { c.rx with syncCnt := 0, chk := 0, state := .lengthLow } := rfl
@[simp] theorem overrideRegs_first (c : RxColumns) : c.overrideRegs.first = c.first := rfl
@[simp] theorem overrideRegs_store (c : RxColumns) : c.overrideRegs.store = c.store := rfl
@[simp] theorem overrideRegs_packet (c : RxColumns) : c.overrideRegs.packet = c.packet := rfl
@[simp] theorem overrideRegs_dropped (c : RxColumns) : c.overrideRegs.dropped = c.dropped := rfl

@[simp] theorem syncStep_cfg (c : RxColumns) (b : Byte) : (c.syncStep b).cfg = c.cfg := rfl
@[simp] theorem syncStep_rx (c : RxColumns) (b : Byte) :
    (c.syncStep b).rx = { c.rx with syncCnt := if c.syncMatches b then c.rx.syncCnt + 1 else 0 } := rfl
@[simp] theorem syncStep_first (c : RxColumns) (b : Byte) : (c.syncStep b).first = c.first := rfl
@[simp] theorem syncStep_store (c : RxColumns) (b : Byte) : (c.syncStep b).store = c.store := rfl
@[simp] theorem syncStep_packet (c : RxColumns) (b : Byte) : (c.syncStep b).packet = c.packet := rfl
@[simp] theorem syncStep_dropped (c : RxColumns) (b : Byte) : (c.syncStep b).dropped = c.dropped := rfl

@[simp] theorem lengthLow_cfg (c : RxColumns) (b : Byte) : (c.lengthLow b).cfg = c.cfg := rfl
@[simp] theorem lengthLow_rx (c : RxColumns) (b : Byte) :
    (c.lengthLow b).rx = { c.rx with len := b.setWidth 16, chk := chkLen c.cfg c.rx.chk b, state := .lengthHigh } := rfl
@[simp] theorem lengthLow_first (c : RxColumns) (b : Byte) : (c.lengthLow b).first = c.first := rfl
@[simp] theorem lengthLow_store (c : RxColumns) (b : Byte) : (c.lengthLow b).store = c.store := rfl
@[simp] theorem lengthLow_packet (c : RxColumns) (b : Byte) : (c.lengthLow b).packet = c.packet := rfl
@[simp] theorem lengthLow_dropped (c : RxColumns) (b : Byte) : (c.lengthLow b).dropped = c.dropped := rfl

@[simp] theorem takeLenHi_cfg (c : RxColumns) (b : Byte) : (c.takeLenHi b).cfg = c.cfg := rfl
@[simp] theorem takeLenHi_rx (c : RxColumns) (b : Byte) :
    (c.takeLenHi b).rx = { c.rx with len := c.decodedLen b, chk := chkLen c.cfg c.rx.chk b } := rfl
@[simp] theorem takeLenHi_first (c : RxColumns) (b : Byte) : (c.takeLenHi b).first = c.first := rfl
@[simp] theorem takeLenHi_store (c : RxColumns) (b : Byte) : (c.takeLenHi b).store = c.store := rfl
@[simp] theorem takeLenHi_packet (c : RxColumns) (b : Byte) : (c.takeLenHi b).packet = c.packet := rfl
@[simp] theorem takeLenHi_dropped (c : RxColumns) (b : Byte) : (c.takeLenHi b).dropped = c.dropped := rfl

@[simp] theorem takeData_cfg (c : RxColumns) (b : Byte) : (c.takeData b).cfg = c.cfg := rfl
@[simp] theorem takeData_rx (c : RxColumns) (b : Byte) :
    (c.takeData b).rx = { c.rx with
      chk := chkData c.rx.chk b, off := c.rx.off + 1,
      state := if c.rx.off.toNat + 1 = c.rx.len.toNat then .readingChecksum else c.rx.state } := rfl
@[simp] theorem takeData_first (c : RxColumns) (b : Byte) : (c.takeData b).first = c.first := rfl
@[simp] theorem takeData_store (c : RxColumns) (b : Byte) : (c.takeData b).store = some (c.rx.off.toNat, b) := rfl
@[simp] theorem takeData_packet (c : RxColumns) (b : Byte) : (c.takeData b).packet = c.packet := rfl
@[simp] theorem takeData_dropped (c : RxColumns) (b : Byte) : (c.takeData b).dropped = c.dropped := rfl

end RxColumns

namespace TxColumns

@[simp] theorem emit_cfg (c : TxColumns) (b : Byte) : (c.emit b).cfg = c.cfg := rfl
@[simp] theorem emit_tx (c : TxColumns) (b : Byte) : (c.emit b).tx = c.tx := rfl
@[simp] theorem emit_respByte (c : TxColumns) (b : Byte) : (c.emit b).respByte = c.respByte := rfl
@[simp] theorem emit_sent (c : TxColumns) (b : Byte) : (c.emit b).sent = some b := rfl

end TxColumns

namespace IrColumns

@[simp] theorem startTick_cfg (c : IrColumns) : c.startTick.cfg = c.cfg := rfl
@[simp] theorem startTick_ir (c : IrColumns) : c.startTick.ir = c.ir := rfl
@[simp] theorem startTick_cnt (c : IrColumns) : c.startTick.cnt = 0 := rfl
@[simp] theorem startTick_tickEn (c : IrColumns) : c.startTick.tickEn = some true := rfl
@[simp] theorem startTick_button (c : IrColumns) : c.startTick.button = c.button := rfl
@[simp] theorem startTick_dropped (c : IrColumns) : c.startTick.dropped = c.dropped := rfl

@[simp] theorem restartTick_cfg (c : IrColumns) : c.restartTick.cfg = c.cfg := rfl
@[simp] theorem restartTick_ir (c : IrColumns) : c.restartTick.ir = c.ir := rfl
@[simp] theorem restartTick_cnt (c : IrColumns) : c.restartTick.cnt = 0 := rfl
@[simp] theorem restartTick_tickEn (c : IrColumns) : c.restartTick.tickEn = c.tickEn := rfl
@[simp] theorem restartTick_button (c : IrColumns) : c.restartTick.button = c.button := rfl
@[simp] theorem restartTick_dropped (c : IrColumns) : c.restartTick.dropped = c.dropped := rfl

@[simp] theorem stopTick_cfg (c : IrColumns) : c.stopTick.cfg = c.cfg := rfl
@[simp] theorem stopTick_ir (c : IrColumns) : c.stopTick.ir = c.ir := rfl
@[simp] theorem stopTick_cnt (c : IrColumns) : c.stopTick.cnt = 0 := rfl
@[simp] theorem stopTick_tickEn (c : IrColumns) : c.stopTick.tickEn = some false := rfl
@[simp] theorem stopTick_button (c : IrColumns) : c.stopTick.button = c.button := rfl
@[simp] theorem stopTick_dropped (c : IrColumns) : c.stopTick.dropped = c.dropped := rfl

@[simp] theorem raise_cfg (c : IrColumns) (d : Drop) : (c.raise d).cfg = c.cfg := rfl
@[simp] theorem raise_ir (c : IrColumns) (d : Drop) : (c.raise d).ir = c.ir := rfl
@[simp] theorem raise_cnt (c : IrColumns) (d : Drop) : (c.raise d).cnt = c.cnt := rfl
@[simp] theorem raise_tickEn (c : IrColumns) (d : Drop) : (c.raise d).tickEn = c.tickEn := rfl
@[simp] theorem raise_button (c : IrColumns) (d : Drop) : (c.raise d).button = c.button := rfl
@[simp] theorem raise_dropped (c : IrColumns) (d : Drop) : (c.raise d).dropped = some d := rfl

@[simp] theorem raiseButton_cfg (c : IrColumns) (a k : Byte) : (c.raiseButton a k).cfg = c.cfg := rfl
@[simp] theorem raiseButton_ir (c : IrColumns) (a k : Byte) : (c.raiseButton a k).ir = c.ir := rfl
@[simp] theorem raiseButton_cnt (c : IrColumns) (a k : Byte) : (c.raiseButton a k).cnt = c.cnt := rfl
@[simp] theorem raiseButton_tickEn (c : IrColumns) (a k : Byte) : (c.raiseButton a k).tickEn = c.tickEn := rfl
@[simp] theorem raiseButton_button (c : IrColumns) (a k : Byte) : (c.raiseButton a k).button = some (a, k) := rfl
@[simp] theorem raiseButton_dropped (c : IrColumns) (a k : Byte) : (c.raiseButton a k).dropped = c.dropped := rfl

@[simp] theorem clearFrame_cfg (c : IrColumns) : c.clearFrame.cfg = c.cfg := rfl
@[simp] theorem clearFrame_ir (c : IrColumns) :
    c.clearFrame.ir = { c.ir with bitIdx := 0, word := 0, lastMark := false } := rfl
@[simp] theorem clearFrame_cnt (c : IrColumns) : c.clearFrame.cnt = c.cnt := rfl
@[simp] theorem clearFrame_tickEn (c : IrColumns) : c.clearFrame.tickEn = c.tickEn := rfl
@[simp] theorem clearFrame_button (c : IrColumns) : c.clearFrame.button = c.button := rfl
@[simp] theorem clearFrame_dropped (c : IrColumns) : c.clearFrame.dropped = c.dropped := rfl

@[simp] theorem goIdle_cfg (c : IrColumns) : c.goIdle.cfg = c.cfg := rfl
@[simp] theorem goIdle_ir (c : IrColumns) :
    c.goIdle.ir = { c.ir with bitIdx := 0, word := 0, lastMark := false, phase := .idle } := rfl
@[simp] theorem goIdle_cnt (c : IrColumns) : c.goIdle.cnt = 0 := rfl
@[simp] theorem goIdle_tickEn (c : IrColumns) : c.goIdle.tickEn = some false := rfl
@[simp] theorem goIdle_button (c : IrColumns) : c.goIdle.button = c.button := rfl
@[simp] theorem goIdle_dropped (c : IrColumns) : c.goIdle.dropped = c.dropped := rfl

@[simp] theorem prologue_cfg (c : IrColumns) (l : Level) : (c.prologue l).cfg = c.cfg := rfl
@[simp] theorem prologue_ir (c : IrColumns) (l : Level) : (c.prologue l).ir = { c.ir with level := l } := rfl
@[simp] theorem prologue_cnt (c : IrColumns) (l : Level) : (c.prologue l).cnt = 0 := rfl
@[simp] theorem prologue_tickEn (c : IrColumns) (l : Level) : (c.prologue l).tickEn = c.tickEn := rfl
@[simp] theorem prologue_button (c : IrColumns) (l : Level) : (c.prologue l).button = c.button := rfl
@[simp] theorem prologue_dropped (c : IrColumns) (l : Level) : (c.prologue l).dropped = c.dropped := rfl

@[simp] theorem takeBit_cfg (c : IrColumns) (v : Bool) : (c.takeBit v).cfg = c.cfg := rfl
@[simp] theorem takeBit_ir (c : IrColumns) (v : Bool) :
    (c.takeBit v).ir = { c.ir with
      word := shiftInBit c.ir.word v, bitIdx := c.ir.bitIdx + 1,
      lastMark := if c.ir.bitIdx.toNat + 1 = Config.irBits then true else c.ir.lastMark, phase := .bitMark } := rfl
@[simp] theorem takeBit_cnt (c : IrColumns) (v : Bool) : (c.takeBit v).cnt = c.cnt := rfl
@[simp] theorem takeBit_tickEn (c : IrColumns) (v : Bool) : (c.takeBit v).tickEn = c.tickEn := rfl
@[simp] theorem takeBit_button (c : IrColumns) (v : Bool) : (c.takeBit v).button = c.button := rfl
@[simp] theorem takeBit_dropped (c : IrColumns) (v : Bool) : (c.takeBit v).dropped = c.dropped := rfl

end IrColumns

namespace DispColumns

@[simp] theorem clearPktPending_cfg (c : DispColumns) : c.clearPktPending.cfg = c.cfg := rfl
@[simp] theorem clearPktPending_txState (c : DispColumns) : c.clearPktPending.txState = c.txState := rfl
@[simp] theorem clearPktPending_pkt (c : DispColumns) : c.clearPktPending.pkt = c.pkt := rfl
@[simp] theorem clearPktPending_ptr (c : DispColumns) : c.clearPktPending.ptr = c.ptr := rfl
@[simp] theorem clearPktPending_payload (c : DispColumns) : c.clearPktPending.payload = c.payload := rfl
@[simp] theorem clearPktPending_irBox (c : DispColumns) : c.clearPktPending.irBox = c.irBox := rfl
@[simp] theorem clearPktPending_packetDone (c : DispColumns) : c.clearPktPending.packetDone = true := rfl
@[simp] theorem clearPktPending_eventDone (c : DispColumns) : c.clearPktPending.eventDone = c.eventDone := rfl
@[simp] theorem clearPktPending_response (c : DispColumns) : c.clearPktPending.response = c.response := rfl
@[simp] theorem clearPktPending_call (c : DispColumns) : c.clearPktPending.call = c.call := rfl
@[simp] theorem clearPktPending_dropped (c : DispColumns) : c.clearPktPending.dropped = c.dropped := rfl

@[simp] theorem clearIrPending_cfg (c : DispColumns) : c.clearIrPending.cfg = c.cfg := rfl
@[simp] theorem clearIrPending_txState (c : DispColumns) : c.clearIrPending.txState = c.txState := rfl
@[simp] theorem clearIrPending_pkt (c : DispColumns) : c.clearIrPending.pkt = c.pkt := rfl
@[simp] theorem clearIrPending_ptr (c : DispColumns) : c.clearIrPending.ptr = c.ptr := rfl
@[simp] theorem clearIrPending_payload (c : DispColumns) : c.clearIrPending.payload = c.payload := rfl
@[simp] theorem clearIrPending_irBox (c : DispColumns) : c.clearIrPending.irBox = c.irBox := rfl
@[simp] theorem clearIrPending_packetDone (c : DispColumns) : c.clearIrPending.packetDone = c.packetDone := rfl
@[simp] theorem clearIrPending_eventDone (c : DispColumns) : c.clearIrPending.eventDone = true := rfl
@[simp] theorem clearIrPending_response (c : DispColumns) : c.clearIrPending.response = c.response := rfl
@[simp] theorem clearIrPending_call (c : DispColumns) : c.clearIrPending.call = c.call := rfl
@[simp] theorem clearIrPending_dropped (c : DispColumns) : c.clearIrPending.dropped = c.dropped := rfl

@[simp] theorem raise_cfg (c : DispColumns) (d : Drop) : (c.raise d).cfg = c.cfg := rfl
@[simp] theorem raise_txState (c : DispColumns) (d : Drop) : (c.raise d).txState = c.txState := rfl
@[simp] theorem raise_pkt (c : DispColumns) (d : Drop) : (c.raise d).pkt = c.pkt := rfl
@[simp] theorem raise_ptr (c : DispColumns) (d : Drop) : (c.raise d).ptr = c.ptr := rfl
@[simp] theorem raise_payload (c : DispColumns) (d : Drop) : (c.raise d).payload = c.payload := rfl
@[simp] theorem raise_irBox (c : DispColumns) (d : Drop) : (c.raise d).irBox = c.irBox := rfl
@[simp] theorem raise_packetDone (c : DispColumns) (d : Drop) : (c.raise d).packetDone = c.packetDone := rfl
@[simp] theorem raise_eventDone (c : DispColumns) (d : Drop) : (c.raise d).eventDone = c.eventDone := rfl
@[simp] theorem raise_response (c : DispColumns) (d : Drop) : (c.raise d).response = c.response := rfl
@[simp] theorem raise_call (c : DispColumns) (d : Drop) : (c.raise d).call = c.call := rfl
@[simp] theorem raise_dropped (c : DispColumns) (d : Drop) : (c.raise d).dropped = some d := rfl

@[simp] theorem makeCall_cfg (c : DispColumns) (d : DrvCall) : (c.makeCall d).cfg = c.cfg := rfl
@[simp] theorem makeCall_txState (c : DispColumns) (d : DrvCall) : (c.makeCall d).txState = c.txState := rfl
@[simp] theorem makeCall_pkt (c : DispColumns) (d : DrvCall) : (c.makeCall d).pkt = c.pkt := rfl
@[simp] theorem makeCall_ptr (c : DispColumns) (d : DrvCall) : (c.makeCall d).ptr = c.ptr := rfl
@[simp] theorem makeCall_payload (c : DispColumns) (d : DrvCall) : (c.makeCall d).payload = c.payload := rfl
@[simp] theorem makeCall_irBox (c : DispColumns) (d : DrvCall) : (c.makeCall d).irBox = c.irBox := rfl
@[simp] theorem makeCall_packetDone (c : DispColumns) (d : DrvCall) : (c.makeCall d).packetDone = c.packetDone := rfl
@[simp] theorem makeCall_eventDone (c : DispColumns) (d : DrvCall) : (c.makeCall d).eventDone = c.eventDone := rfl
@[simp] theorem makeCall_response (c : DispColumns) (d : DrvCall) : (c.makeCall d).response = c.response := rfl
@[simp] theorem makeCall_call (c : DispColumns) (d : DrvCall) : (c.makeCall d).call = some d := rfl
@[simp] theorem makeCall_dropped (c : DispColumns) (d : DrvCall) : (c.makeCall d).dropped = c.dropped := rfl

@[simp] theorem answer_cfg (c : DispColumns) (k : Byte) (p : List Byte) : (c.answer k p).cfg = c.cfg := rfl
@[simp] theorem answer_txState (c : DispColumns) (k : Byte) (p : List Byte) :
    (c.answer k p).txState = c.txState := rfl
@[simp] theorem answer_pkt (c : DispColumns) (k : Byte) (p : List Byte) : (c.answer k p).pkt = c.pkt := rfl
@[simp] theorem answer_ptr (c : DispColumns) (k : Byte) (p : List Byte) : (c.answer k p).ptr = c.ptr := rfl
@[simp] theorem answer_payload (c : DispColumns) (k : Byte) (p : List Byte) :
    (c.answer k p).payload = c.payload := rfl
@[simp] theorem answer_irBox (c : DispColumns) (k : Byte) (p : List Byte) : (c.answer k p).irBox = c.irBox := rfl
@[simp] theorem answer_packetDone (c : DispColumns) (k : Byte) (p : List Byte) :
    (c.answer k p).packetDone = true := rfl
@[simp] theorem answer_eventDone (c : DispColumns) (k : Byte) (p : List Byte) :
    (c.answer k p).eventDone = c.eventDone := rfl
@[simp] theorem answer_response (c : DispColumns) (k : Byte) (p : List Byte) :
    (c.answer k p).response = some (k, p) := rfl
@[simp] theorem answer_call (c : DispColumns) (k : Byte) (p : List Byte) : (c.answer k p).call = c.call := rfl
@[simp] theorem answer_dropped (c : DispColumns) (k : Byte) (p : List Byte) :
    (c.answer k p).dropped = c.dropped := rfl

end DispColumns

end Sys2Proof.Machine
end

