-- ==== Sys2Proof/Laws/Ops.lean ====
section
/-! SUPPORT. What each shared operation can do, said once: the proofs cite these lemmas instead of unfolding. -/

namespace Sys2Proof.Machine

theorem andThen_next {C D : Type} {r : Answer C} {f : C → Answer D} {t : D} :
    andThen r f = .next t ↔ ∃ u, r = .next u ∧ f u = .next t := by
  cases r <;> simp [andThen]

theorem andThen_fault {C D : Type} {r : Answer C} {f : C → Answer D} {x : Fault} :
    andThen r f = .fault x ↔ r = .fault x ∨ ∃ u, r = .next u ∧ f u = .fault x := by
  cases r <;> simp [andThen]

theorem andThen_refused {C D : Type} {r : Answer C} {f : C → Answer D} {x : Refusal} :
    andThen r f = .refused x ↔ r = .refused x ∨ ∃ u, r = .next u ∧ f u = .refused x := by
  cases r <;> simp [andThen]

@[simp] theorem andThen_of_next {C D : Type} (u : C) (f : C → Answer D) : andThen (.next u) f = f u := rfl
@[simp] theorem andThen_of_fault {C D : Type} (x : Fault) (f : C → Answer D) : andThen (.fault x) f = .fault x := rfl
@[simp] theorem andThen_of_refused {C D : Type} (x : Refusal) (f : C → Answer D) :
    andThen (.refused x) f = .refused x := rfl

theorem whenSelected_next {C : Type} {sel : Bool} {r : Answer C} {t : C} :
    whenSelected sel r = .next t ↔ sel = true ∧ r = .next t := by
  cases sel <;> simp [whenSelected]

theorem whenSelected_fault {C : Type} {sel : Bool} {r : Answer C} {x : Fault} :
    whenSelected sel r = .fault x ↔ sel = true ∧ r = .fault x := by
  cases sel <;> simp [whenSelected]

@[simp] theorem whenSelected_true {C : Type} (r : Answer C) : whenSelected true r = r := rfl
@[simp] theorem whenSelected_false {C : Type} (r : Answer C) : whenSelected false r = .refused .notSelected := rfl

theorem next_inj {C : Type} {c t : C} : (Host.Outcome.next c : Answer C) = .next t ↔ t = c :=
  ⟨fun h => (Host.Outcome.next.inj h).symm, fun h => h ▸ rfl⟩

/-! What an operation run on its columns can do: the columns it answers, written back; nothing else (R32). -/

theorem runRx_next {s t : State} {f : RxColumns → Answer RxColumns} :
    s.runRx f = .next t ↔ ∃ c, f s.rxColumns = .next c ∧ t = s.putRx c :=
  andThen_next.trans (exists_congr fun _ => and_congr_right fun _ => next_inj)

theorem runTx_next {s t : State} {f : TxColumns → Answer TxColumns} :
    s.runTx f = .next t ↔ ∃ c, f s.txColumns = .next c ∧ t = s.putTx c :=
  andThen_next.trans (exists_congr fun _ => and_congr_right fun _ => next_inj)

theorem runIr_next {s t : State} {f : IrColumns → Answer IrColumns} :
    s.runIr f = .next t ↔ ∃ c, f s.irColumns = .next c ∧ t = s.putIr c :=
  andThen_next.trans (exists_congr fun _ => and_congr_right fun _ => next_inj)

theorem runDisp_next {s t : State} {f : DispColumns → Answer DispColumns} :
    s.runDisp f = .next t ↔ ∃ c, f s.dispColumns = .next c ∧ t = s.putDisp c :=
  andThen_next.trans (exists_congr fun _ => and_congr_right fun _ => next_inj)

/-- Two states with the same columns give the same answer (R32: what an operation reads). -/
theorem runRx_congr {s u t : State} {f : RxColumns → Answer RxColumns} (hc : u.rxColumns = s.rxColumns)
    (h : s.runRx f = .next t) : ∃ c, t = s.putRx c ∧ u.runRx f = .next (u.putRx c) := by
  obtain ⟨c, h1, h2⟩ := runRx_next.1 h
  exact ⟨c, h2, runRx_next.2 ⟨c, hc ▸ h1, rfl⟩⟩

theorem runTx_congr {s u t : State} {f : TxColumns → Answer TxColumns} (hc : u.txColumns = s.txColumns)
    (h : s.runTx f = .next t) : ∃ c, t = s.putTx c ∧ u.runTx f = .next (u.putTx c) := by
  obtain ⟨c, h1, h2⟩ := runTx_next.1 h
  exact ⟨c, h2, runTx_next.2 ⟨c, hc ▸ h1, rfl⟩⟩

theorem runIr_congr {s u t : State} {f : IrColumns → Answer IrColumns} (hc : u.irColumns = s.irColumns)
    (h : s.runIr f = .next t) : ∃ c, t = s.putIr c ∧ u.runIr f = .next (u.putIr c) := by
  obtain ⟨c, h1, h2⟩ := runIr_next.1 h
  exact ⟨c, h2, runIr_next.2 ⟨c, hc ▸ h1, rfl⟩⟩

/-! An operation's row refuses where its selecting condition fails (log entry 3). -/

theorem runRx_unselected {s : State} {sel : RxColumns → Bool} {f : RxColumns → Answer RxColumns}
    (h : sel s.rxColumns = false) : s.runRx (fun c => whenSelected (sel c) (f c)) = .refused .notSelected := by
  simp only [State.runRx, h, whenSelected_false, andThen_of_refused]

theorem runTx_unselected {s : State} {sel : TxColumns → Bool} {f : TxColumns → Answer TxColumns}
    (h : sel s.txColumns = false) : s.runTx (fun c => whenSelected (sel c) (f c)) = .refused .notSelected := by
  simp only [State.runTx, h, whenSelected_false, andThen_of_refused]

theorem runIr_unselected {s : State} {sel : IrColumns → Bool} {f : IrColumns → Answer IrColumns}
    (h : sel s.irColumns = false) : s.runIr (fun c => whenSelected (sel c) (f c)) = .refused .notSelected := by
  simp only [State.runIr, h, whenSelected_false, andThen_of_refused]

theorem runDisp_unselected {s : State} {sel : DispColumns → Bool} {f : DispColumns → Answer DispColumns}
    (h : sel s.dispColumns = false) : s.runDisp (fun c => whenSelected (sel c) (f c)) = .refused .notSelected := by
  simp only [State.runDisp, h, whenSelected_false, andThen_of_refused]

theorem byteAt_ok {sp : Space} {cap i : Nat} {o v : Byte} :
    byteAt sp cap i o = .ok v ↔ i < cap ∧ o = v := by
  unfold byteAt
  split <;> simp_all

/-- A range read answers exactly the bytes at its indices. -/
theorem readRange_ok {c : DispColumns} {i n : Nat} {vs : List Byte} :
    c.readRange i n = .ok vs ↔
      vs.length = n ∧ ∀ j, j < n → i + j < c.cfg.rxBufCap ∧ vs[j]? = some (c.payload.rxByte (i + j)) := by
  induction n generalizing i vs with
  | zero => cases vs <;> simp [DispColumns.readRange]
  | succ n ih =>
    constructor
    · intro h
      simp only [DispColumns.readRange] at h
      split at h
      · cases h
      · rename_i v hv
        split at h
        · cases h
        · rename_i ws hw
          obtain rfl : v :: ws = vs := by simpa using h
          obtain ⟨hl, hr⟩ := ih.1 hw
          refine ⟨by simp [hl], fun j hj => ?_⟩
          cases j with
          | zero => simpa [eq_comm] using byteAt_ok.1 hv
          | succ j =>
            have := hr j (by omega)
            simpa [Nat.add_assoc, Nat.add_comm 1 j] using this
    · rintro ⟨hl, hr⟩
      cases vs with
      | nil => simp at hl
      | cons v ws =>
        have h0 : c.read i = .ok v := byteAt_ok.2 (by simpa [eq_comm] using hr 0 (by omega))
        have h1 : c.readRange (i + 1) n = .ok ws := by
          refine ih.2 ⟨by simpa using hl, fun j hj => ?_⟩
          simpa [Nat.add_assoc, Nat.add_comm 1 j] using hr (j + 1) (by omega)
        simp [DispColumns.readRange, h0, h1]

theorem inwin_iff {d x : Nat} : inwin d x = true ↔ x - x * 3 / 10 ≤ d ∧ d ≤ x + x * 3 / 10 := by
  unfold inwin winLo winHi winDelta
  rw [Bool.and_eq_true, decide_eq_true_eq, decide_eq_true_eq]

theorem fetch_none {s : State} : s.fetch = none ↔ s.events = [] := by
  unfold State.fetch
  cases s.events with
  | nil => simp
  | cons b bs => simp only; split <;> simp

theorem fetch_ok {s t : State} {i : Instr} :
    s.fetch = some (.ok (i, t)) ↔ ∃ rest, decode s.events = .ok (i, rest) ∧ t = { s with events := rest } := by
  unfold State.fetch
  cases h : s.events with
  | nil => simp [decode]
  | cons b bs =>
    simp only
    cases hd : decode (b :: bs) with
    | error e => simp
    | ok p =>
      obtain ⟨j, rest⟩ := p
      simp only [Option.some.injEq, Except.ok.injEq, Prod.mk.injEq]
      constructor
      · rintro ⟨rfl, rfl⟩; exact ⟨rest, ⟨rfl, rfl⟩, rfl⟩
      · rintro ⟨r, ⟨rfl, rfl⟩, rfl⟩; exact ⟨rfl, rfl⟩

end Sys2Proof.Machine
end

