-- ==== Sys2Proof/Laws/Dispatcher.lean ====
section
/-! SUPPORT. What `DISP.POLL` can do: the shapes of its next states, the bytes a command reads of its payload, and one
inversion lemma. -/

namespace Sys2Proof.Machine

theorem read_of {s : State} {p : List Byte} (h : PayloadIs s p) {j : Nat} (hj : j < p.length) :
    1 + j < s.cfg.rxBufCap ∧ p[j]? = some (s.dispColumns.payload.rxByte (1 + j)) := by
  obtain ⟨h1, h2, h3⟩ := h
  refine ⟨by omega, ?_⟩
  rw [State.dispColumns_payload, Memory.rxByte_window _ ⟨by omega, by omega⟩, h3 j hj]

/-- Payload byte `i` (R47). -/
theorem payloadByte_of {s : State} {p : List Byte} {i : Nat} {v : Byte} (h : PayloadIs s p) (hi : p[i]? = some v) :
    s.dispColumns.payloadByte i = .ok v := by
  obtain ⟨h1, h2⟩ := read_of h (List.getElem?_eq_some_iff.1 hi).1
  exact byteAt_ok.2 ⟨h1, Option.some.inj (h2.symm.trans hi)⟩

/-- Payload bytes `i` to `i + n - 1` (R47). -/
theorem payloadBytes_of {s : State} {p : List Byte} {i n : Nat} (h : PayloadIs s p) (hn : i + n ≤ p.length) :
    s.dispColumns.payloadBytes i n = .ok ((p.drop i).take n) := by
  refine readRange_ok.2 ⟨by simp; omega, fun j hj => ?_⟩
  obtain ⟨h1, h2⟩ := read_of h (j := i + j) (by omega)
  rw [List.getElem?_take, if_pos hj, List.getElem?_drop, h2]
  exact ⟨by rw [← Nat.add_assoc] at h1; exact h1, by rw [← Nat.add_assoc]; rfl⟩

theorem loadedTx_of (c n : Byte) : TxUnit.start c n = loadedTx c n.toNat := by
  simp only [TxUnit.start, loadedTx, TxUnit.mk.injEq, true_and, and_true]
  apply BitVec.eq_of_toNat_eq
  simp

/-- The state after a packet was answered with an empty payload, with what was output and dropped (R151, R162). -/
abbrev emptyAnswered (s : State) (c : Byte) (o : Option Output) (d : Option Drop) : State :=
  { answeredEmpty s c with outputs := addOutput s.outputs o, drops := addDrop s.drops d }

/-- The state after a bus read was answered (R158). -/
abbrev busReadAnswered (s : State) (addr count : Byte) (vs : List Byte) : State :=
  { s with
    pkt := { s.pkt with pending := false }, respLen := count, respBuf := s.respBuf.writeAll 0 vs,
    tx := loadedTx 0x9B count.toNat, outputs := s.outputs ++ [.call (.busRead addr count)] }

/-- The state after an IR event was sent (R159). -/
abbrev buttonSent (s : State) : State :=
  { s with
    irBox := { s.irBox with pending := false }, respLen := 2,
    respBuf := s.respBuf.writeAll 0 [s.irBox.addr, s.irBox.cmd], tx := loadedTx 0xDA 2 }

/-- The state after an unknown command (R161). -/
abbrev unknownDropped (s : State) : State :=
  { s with pkt := { s.pkt with pending := false }, drops := s.drops ++ [.unknownCommand] }

theorem putDisp_self (s : State) : s.putDisp s.dispColumns = s := rfl

theorem putDisp_nop (s : State) (q : Request) :
    s.putDisp (s.dispColumns.answer q.code []) = emptyAnswered s q.code none none := by cases q <;> rfl

theorem putDisp_answerShort (s : State) (q : Request) :
    s.putDisp (s.dispColumns.answerShort q) = emptyAnswered s q.code none (some .shortPayload) := by cases q <;> rfl

theorem putDisp_answerCall (s : State) (q : Request) (d : DrvCall) :
    s.putDisp (s.dispColumns.answerCall q d) = emptyAnswered s q.code (some (.call d)) none := by cases q <;> rfl

theorem putDisp_unknownCommand (s : State) : s.putDisp s.dispColumns.unknownCommand = unknownDropped s := rfl

theorem putDisp_remoteButton (s : State) : s.putDisp s.dispColumns.remoteButton = buttonSent s := rfl

theorem putDisp_busRead {s : State} (addr count : Byte) {r : List Byte} (h : count.toNat ≤ r.length) :
    s.putDisp ((s.dispColumns.makeCall (.busRead addr count)).answer Request.busRead.code (r.take count.toNat)) =
      busReadAnswered s addr count (r.take count.toNat) := by
  have hlen : BitVec.ofNat 8 (r.take count.toNat).length = count := by
    apply BitVec.eq_of_toNat_eq
    have := count.isLt
    simp
    omega
  simp only [State.putDisp, State.respond, DispColumns.answer, DispColumns.makeCall, DispColumns.clearPktPending,
    hlen, loadedTx_of]
  rfl

/-- What handling a packet can do, once and for all. -/
theorem handlePacket_next {s : State} {r : List Byte} {c : DispColumns}
    (h : s.dispColumns.handlePacket r = .next c) :
    decodeRequest s.pkt.cmd = none ∧ s.putDisp c = unknownDropped s ∨
    ∃ q, decodeRequest s.pkt.cmd = some q ∧
      (s.putDisp c = emptyAnswered s q.code none (some .shortPayload) ∨ s.putDisp c = emptyAnswered s q.code none none ∨
       (∃ d, s.putDisp c = emptyAnswered s q.code (some (.call d)) none) ∨
       ∃ addr count, count.toNat ≤ r.length ∧ s.putDisp c = busReadAnswered s addr count (r.take count.toNat)) := by
  unfold DispColumns.handlePacket at h
  split at h <;> rename_i hq
  · obtain rfl := next_inj.1 h
    exact .inr ⟨_, hq, .inr (.inl (putDisp_nop s .nop))⟩
  · refine .inr ⟨_, hq, ?_⟩
    unfold DispColumns.displayFlush at h
    split at h
    · split at h
      · obtain rfl := next_inj.1 h
        exact .inr (.inr (.inl ⟨_, putDisp_answerCall s _ _⟩))
      · cases h
    · obtain rfl := next_inj.1 h
      exact .inl (putDisp_answerShort s _)
  · refine .inr ⟨_, hq, ?_⟩
    unfold DispColumns.displayPower at h
    split at h
    · split at h
      · obtain rfl := next_inj.1 h
        exact .inr (.inr (.inl ⟨_, putDisp_answerCall s _ _⟩))
      · cases h
    · obtain rfl := next_inj.1 h
      exact .inl (putDisp_answerShort s _)
  · refine .inr ⟨_, hq, ?_⟩
    unfold DispColumns.displayBrightness at h
    split at h
    · split at h
      · obtain rfl := next_inj.1 h
        exact .inr (.inr (.inl ⟨_, putDisp_answerCall s _ _⟩))
      · cases h
    · obtain rfl := next_inj.1 h
      exact .inl (putDisp_answerShort s _)
  · refine .inr ⟨_, hq, ?_⟩
    unfold DispColumns.busWrite at h
    split at h
    · split at h
      · split at h
        · obtain rfl := next_inj.1 h
          exact .inr (.inr (.inl ⟨_, putDisp_answerCall s _ _⟩))
        · cases h
      · cases h
    · obtain rfl := next_inj.1 h
      exact .inl (putDisp_answerShort s _)
  · refine .inr ⟨_, hq, ?_⟩
    unfold DispColumns.busRead at h
    split at h
    · split at h
      · rename_i addr _
        split at h
        · rename_i count _
          split at h
          · cases h
          · rename_i hl
            obtain rfl := next_inj.1 h
            exact .inr (.inr (.inr ⟨addr, count, by omega, putDisp_busRead addr count (by omega)⟩))
        · cases h
      · cases h
    · obtain rfl := next_inj.1 h
      exact .inl (putDisp_answerShort s _)
  · obtain rfl := next_inj.1 h
    exact .inl ⟨hq, putDisp_unknownCommand s⟩

/-- What DISP.POLL does, once and for all (R150). -/
theorem execDispPoll_eq (s : State) (r : List Byte) :
    execDispPoll r s =
      if s.tx.state = .idle then
        if s.pkt.pending = true then s.runDisp (·.handlePacket r)
        else if s.irBox.pending = true then .next (buttonSent s)
        else .next s
      else .next s := by
  unfold execDispPoll State.runDisp DispColumns.poll
  beta_reduce
  by_cases hi : s.tx.state = .idle
  · rw [if_pos (c := s.dispColumns.txState = .idle) hi, if_pos hi]
    by_cases hp : s.pkt.pending = true
    · rw [if_pos (c := s.dispColumns.pkt.pending = true) hp, if_pos hp]
    · rw [if_neg (c := s.dispColumns.pkt.pending = true) hp, if_neg hp]
      by_cases hb : s.irBox.pending = true
      · rw [if_pos (c := s.dispColumns.irBox.pending = true) hb, if_pos hb, andThen_of_next, putDisp_remoteButton]
      · rw [if_neg (c := s.dispColumns.irBox.pending = true) hb, if_neg hb, andThen_of_next, putDisp_self]
  · rw [if_neg (c := s.dispColumns.txState = .idle) hi, if_neg hi, andThen_of_next, putDisp_self]

/-- What DISP.POLL can do when it completes. -/
theorem execDispPoll_next {s t : State} {r : List Byte} (h : execDispPoll r s = .next t) :
    (s.tx.state ≠ .idle ∨ s.pkt.pending = false ∧ s.irBox.pending = false) ∧ t = s ∨
    s.tx.state = .idle ∧ s.pkt.pending = true ∧ s.runDisp (·.handlePacket r) = .next t ∨
    s.tx.state = .idle ∧ s.pkt.pending = false ∧ s.irBox.pending = true ∧ t = buttonSent s := by
  rw [execDispPoll_eq] at h
  split at h
  · rename_i hi
    split at h
    · exact .inr (.inl ⟨hi, ‹_›, h⟩)
    · rename_i hp
      rw [Bool.not_eq_true] at hp
      split at h
      · rename_i hb
        exact .inr (.inr ⟨hi, hp, hb, next_inj.1 h⟩)
      · rename_i hb
        exact .inl ⟨.inr ⟨hp, by simpa using hb⟩, next_inj.1 h⟩
  · exact .inl ⟨.inl ‹_›, next_inj.1 h⟩

/-- The payload is read byte by byte, and in no other way. -/
theorem readRange_congr {c : DispColumns} {m : Memory} (h : ∀ i, m.rxByte i = c.payload.rxByte i) (i n : Nat) :
    ({ c with payload := m } : DispColumns).readRange i n = c.readRange i n := by
  induction n generalizing i with
  | zero => rfl
  | succ n ih => simp only [DispColumns.readRange, DispColumns.read, h, ih]

/-- Columns that agree, but for payloads that read alike, get the same answer (R32: what a command reads). -/
theorem handlePacket_congr {c d : DispColumns} {m : Memory} {r : List Byte} (h : ∀ i, m.rxByte i = c.payload.rxByte i)
    (hd : c.handlePacket r = .next d) :
    ({ c with payload := m } : DispColumns).handlePacket r = .next { d with payload := m } := by
  have hb : ∀ i, ({ c with payload := m } : DispColumns).payloadByte i = c.payloadByte i := fun i => by
    simp only [DispColumns.payloadByte, DispColumns.read, h]
  have hr : ∀ i n, ({ c with payload := m } : DispColumns).payloadBytes i n = c.payloadBytes i n := fun i n => by
    simp only [DispColumns.payloadBytes, readRange_congr h]
  have hp : ∀ q, ({ c with payload := m } : DispColumns).payloadReaches q = c.payloadReaches q := fun _ => rfl
  revert hd
  unfold DispColumns.handlePacket DispColumns.nop DispColumns.displayFlush DispColumns.displayPower
    DispColumns.displayBrightness DispColumns.busWrite DispColumns.busRead
  simp only [hb, hr, hp]
  intro hd
  repeat' (split at hd)
  all_goals simp_all only [reduceCtorEq, Bool.false_eq_true, if_false, if_true, Host.Outcome.next.injEq]
  all_goals
    subst hd
    first
      | rfl
      | (rw [if_pos (by assumption)]; rfl)

/-- Two states with the same columns get the same answer of a poll, written back (R32: what DISP.POLL reads). -/
theorem execDispPoll_congr {s u t : State} {r : List Byte} (hc : u.cfg = s.cfg) (hp : u.pkt = s.pkt)
    (hi : u.irBox = s.irBox) (hx : u.tx.state = s.tx.state)
    (hm : ∀ i, 1 ≤ i → i ≤ s.pkt.len.toNat → u.rxBuf.rxByte i = s.rxBuf.rxByte i) (h : execDispPoll r s = .next t) :
    ∃ c, t = s.putDisp c ∧ execDispPoll r u = .next (u.putDisp c) := by
  obtain ⟨c, h1, rfl⟩ := runDisp_next.1 h
  have hu : u.dispColumns = { s.dispColumns with payload := u.dispColumns.payload } := by
    simp only [State.dispColumns, hc, hp, hi, hx, State.pktPtr]
  have hread : ∀ i, u.dispColumns.payload.rxByte i = s.dispColumns.payload.rxByte i := fun i => by
    rw [State.dispColumns_payload, State.dispColumns_payload, hp]
    by_cases h : 1 ≤ i ∧ i ≤ s.pkt.len.toNat
    · rw [Memory.rxByte_window _ h, Memory.rxByte_window _ h, hm i h.1 h.2]
    · rw [Memory.rxByte, Memory.rxByte, Memory.read_window, Memory.read_window, if_neg h, if_neg h]
  refine ⟨c, rfl, runDisp_next.2 ⟨{ c with payload := u.dispColumns.payload }, ?_, rfl⟩⟩
  rw [hu]
  revert h1
  unfold DispColumns.poll
  split
  · split
    · exact handlePacket_congr hread
    · split <;> intro h1 <;> obtain rfl := next_inj.1 h1 <;> rfl
  · intro h1
    obtain rfl := next_inj.1 h1
    rfl

end Sys2Proof.Machine
end

