-- ==== Sys2Proof/Laws/Infrared.lean ====
section
/-! SUPPORT. What `IR.EDGE` does: the shapes of its next states, one equation, and the inversion lemmas read off it. -/

namespace Sys2Proof.Machine

theorem inwin_true_iff {d x : Nat} : inwin d x = true ↔ InWindow d x := inwin_iff

theorem inwin_false_iff {d x : Nat} : inwin d x = false ↔ ¬ InWindow d x := by
  rw [← Bool.not_eq_true, inwin_iff]

theorem irEnabled_iff {c : IrColumns} {l : Level} : c.enabled l = true ↔ l ≠ c.ir.level := by
  simp [IrColumns.enabled]

theorem irSelected_iff {c : IrColumns} {p : IrPhase} {l : Level} :
    c.selected p l = true ↔ l ≠ c.ir.level ∧ c.ir.phase = p := by
  simp [IrColumns.selected, irEnabled_iff]

/-- The state after an edge that goes on to another phase (R129, R130, R132). -/
abbrev toPhase (s : State) (l : Level) (p : IrPhase) : State :=
  { s with tick := { s.tick with cnt := 0 }, ir := { s.ir with level := l, phase := p } }

/-- The state after an edge that starts an attempt (R128). -/
abbrev attemptStarted (s : State) (l : Level) : State :=
  { s with
    tick := { en := true, cnt := 0 },
    ir := { s.ir with level := l, phase := .leadMark, bitIdx := 0, word := 0, lastMark := false } }

/-- The state after an edge that shifts a bit in (R131). -/
abbrev bitTaken (s : State) (l : Level) (v : Bool) : State :=
  { s with
    tick := { s.tick with cnt := 0 },
    ir := { s.ir with level := l, phase := .bitMark, word := shiftInBit s.ir.word v, bitIdx := s.ir.bitIdx + 1,
                      lastMark := if s.ir.bitIdx.toNat + 1 = 32 then true else s.ir.lastMark } }

/-- The state after an edge that ends an attempt with a drop (R133, R134, R135). -/
abbrev attemptDropped (s : State) (l : Level) (d : Drop) : State :=
  { s with tick := stoppedTick, ir := idleIr s l, drops := s.drops ++ [d] }

/-- The state after an edge that accepts a frame (R133, R136). -/
abbrev frameAccepted (s : State) (l : Level) : State :=
  { s with
    tick := stoppedTick,
    ir := { idleIr s l with lastValid := true, lastAddr := irAddrOf s.ir.word, lastCmd := irCmdOf s.ir.word },
    irBox := { pending := true, addr := irAddrOf s.ir.word, cmd := irCmdOf s.ir.word } }

/-- The state after an edge that resends the last frame (R134, R136). -/
abbrev frameResent (s : State) (l : Level) : State :=
  { s with tick := stoppedTick, ir := idleIr s l,
           irBox := { pending := true, addr := s.ir.lastAddr, cmd := s.ir.lastCmd } }

/-- The state an enabled edge leads to, by the rule of the phase (R128 to R135). -/
def edgeState (s : State) (l : Level) : State :=
  match s.ir.phase with
  | .idle => if l = .mark then attemptStarted s l else toPhase s l .idle
  | .leadMark =>
    if l = .space ∧ InWindow s.tick.cnt s.cfg.tLeadMark then toPhase s l .leadSpace
    else attemptDropped s l .irTiming
  | .leadSpace =>
    if l = .mark ∧ InWindow s.tick.cnt s.cfg.tLeadSpace then toPhase s l .bitMark
    else if l = .mark ∧ InWindow s.tick.cnt s.cfg.tRepeatSpace then
      if s.ir.lastValid = true then frameResent s l else attemptDropped s l .irRepeatNoFrame
    else attemptDropped s l .irTiming
  | .bitMark =>
    if l = .space ∧ InWindow s.tick.cnt s.cfg.tBitMark then
      if s.ir.lastMark = true then
        if complementsMatch s.ir.word = true then frameAccepted s l else attemptDropped s l .irComplement
      else toPhase s l .bitSpace
    else attemptDropped s l .irTiming
  | .bitSpace =>
    if l = .mark ∧ InWindow s.tick.cnt s.cfg.tZeroSpace then bitTaken s l false
    else if l = .mark ∧ InWindow s.tick.cnt s.cfg.tOneSpace then bitTaken s l true
    else attemptDropped s l .irTiming

theorem putIr_abort (s : State) (l : Level) :
    s.putIr (s.irColumns.prologue l).abort = attemptDropped s l .irTiming := rfl

theorem putIr_finish (s : State) (l : Level) :
    s.putIr (s.irColumns.prologue l).finish =
      if complementsMatch s.ir.word = true then frameAccepted s l else attemptDropped s l .irComplement := by
  unfold IrColumns.finish
  by_cases h : complementsMatch s.ir.word = true
  · rw [if_pos (by exact h), if_pos (by exact h)]; rfl
  · rw [if_neg (by exact h), if_neg (by exact h)]; rfl

theorem putIr_repeatCode (s : State) (l : Level) :
    s.putIr (s.irColumns.prologue l).repeatCode =
      if s.ir.lastValid = true then frameResent s l else attemptDropped s l .irRepeatNoFrame := by
  unfold IrColumns.repeatCode
  by_cases h : s.ir.lastValid = true
  · rw [if_pos (by exact h), if_pos (by exact h)]; rfl
  · rw [if_neg (by exact h), if_neg (by exact h)]; rfl

/-- The phase rule on the columns is `edgeState`. -/
theorem putIr_phaseRule (s : State) (l : Level) :
    s.putIr ((s.irColumns.prologue l).phaseRule l s.tick.cnt) = edgeState s l := by
  unfold IrColumns.phaseRule edgeState
  simp only [IrColumns.prologue_ir, State.irColumns_ir]
  cases hp : s.ir.phase <;> simp only
  · cases l
    · simp [IrColumns.idle, State.putIr, fillButton, addDrop, hp]
    · rfl
  · simp only [IrColumns.leadMark, inwin_true_iff, IrColumns.prologue_cfg, State.irColumns_cfg]
    split <;> rfl
  · simp only [IrColumns.leadSpace, inwin_true_iff, IrColumns.prologue_cfg, State.irColumns_cfg]
    cases l
    · simp [putIr_abort]
    · simp only [ne_eq, not_true_eq_false, if_false, true_and]
      split
      · rfl
      · split
        · exact putIr_repeatCode s .mark
        · rfl
  · simp only [IrColumns.bitMark, inwin_false_iff, IrColumns.prologue_cfg, State.irColumns_cfg]
    cases l
    · simp only [ne_eq, not_true_eq_false, false_or, true_and, ite_not]
      split
      · by_cases h : s.ir.lastMark = true
        · rw [if_pos (by exact h), if_pos (by exact h)]; exact putIr_finish s .space
        · rw [if_neg (by exact h), if_neg (by exact h)]; rfl
      · rfl
    · simp [putIr_abort]
  · simp only [IrColumns.bitSpace, inwin_true_iff, IrColumns.prologue_cfg, State.irColumns_cfg]
    cases l
    · simp [putIr_abort]
    · simp only [ne_eq, not_true_eq_false, if_false, true_and]
      split
      · rfl
      · split <;> rfl

/-- What IR.EDGE does, once and for all (R127 to R136): an enabled edge always completes, an edge to the present line
state is refused. -/
theorem execIrEdge_eq (s : State) (l : Level) :
    execIrEdge l s = if l ≠ s.ir.level then .next (edgeState s l) else .refused .edgeNotEnabled := by
  unfold execIrEdge State.runIr IrColumns.edge
  beta_reduce
  by_cases h : l = s.ir.level
  · rw [if_neg (by simp [IrColumns.enabled, h]), if_neg (by simp [h])]; rfl
  · rw [if_pos (irEnabled_iff.2 h), if_pos h, andThen_of_next, ← putIr_phaseRule]; rfl

theorem execIrEdge_of_enabled {s : State} {l : Level} (h : l ≠ s.ir.level) : execIrEdge l s = .next (edgeState s l) := by
  rw [execIrEdge_eq, if_pos h]

/-- What IR.EDGE can do when it completes. -/
theorem execIrEdge_next {s t : State} {l : Level} (h : execIrEdge l s = .next t) :
    l ≠ s.ir.level ∧
    (s.ir.phase = .idle ∧ l = .mark ∧ t = attemptStarted s l ∨
     s.ir.phase = .idle ∧ l = .space ∧ t = toPhase s l .idle ∨
     s.ir.phase = .leadMark ∧ l = .space ∧ t = toPhase s l .leadSpace ∨
     s.ir.phase = .leadSpace ∧ l = .mark ∧ t = toPhase s l .bitMark ∨
     s.ir.phase = .bitMark ∧ l = .space ∧ s.ir.lastMark = false ∧ t = toPhase s l .bitSpace ∨
     s.ir.phase = .bitSpace ∧ l = .mark ∧ (∃ v, t = bitTaken s l v) ∨
     s.ir.phase = .bitMark ∧ s.ir.lastMark = true ∧ complementsMatch s.ir.word = true ∧ t = frameAccepted s l ∨
     s.ir.phase = .leadSpace ∧ s.ir.lastValid = true ∧ t = frameResent s l ∨
     s.ir.phase ≠ .idle ∧ ∃ d, t = attemptDropped s l d) := by
  rw [execIrEdge_eq] at h
  split at h
  · rename_i hl
    refine ⟨hl, ?_⟩
    obtain rfl := next_inj.1 h
    unfold edgeState
    cases hp : s.ir.phase <;> simp only
    · cases l <;> simp
    · split
      · rename_i hc; simp [hc.1]
      · simp
    · split
      · rename_i hc; simp [hc.1]
      · split
        · split
          · rename_i hv; simp [hv]
          · simp
        · simp
    · split
      · rename_i hc
        split
        · rename_i hm
          split
          · rename_i hw; simp [hm, hw]
          · simp
        · rename_i hm; simp [hc.1, hm]
      · simp
    · split
      · rename_i hc; exact .inr (.inr (.inr (.inr (.inr (.inl ⟨trivial, hc.1, false, rfl⟩)))))
      · split
        · rename_i hc; exact .inr (.inr (.inr (.inr (.inr (.inl ⟨trivial, hc.1, true, rfl⟩)))))
        · simp
  · cases h

/-- IR.EDGE never faults, and is refused only where it is no edge. -/
theorem execIrEdge_total (s : State) (l : Level) :
    (∃ t, execIrEdge l s = .next t) ∨ l = s.ir.level ∧ execIrEdge l s = .refused .edgeNotEnabled := by
  rw [execIrEdge_eq]
  by_cases h : l = s.ir.level
  · exact .inr ⟨h, if_neg (not_not.2 h)⟩
  · exact .inl ⟨_, if_pos h⟩

end Sys2Proof.Machine
end

