-- ==== Sys2Proof/Laws/PerInstr.lean ====
section
/-! SUPPORT. Facts about each instruction as syntax, one lemma per constructor. `EncodeFits`: an encoding is a match
byte, a selector of one of the eight formats, and operands. -/

namespace Sys2Proof.Laws.EncodeFits

/-- The encoding begins with a match byte and a format selector from 0 to 7. -/
def Statement (i : Instr) : Prop := ∃ code sel ops, encode i = code :: sel :: ops ∧ sel.toNat ≤ 7

theorem nop : Statement .nop := ⟨_, _, _, rfl, by decide⟩
theorem displayFlush : Statement .displayFlush := ⟨_, _, _, rfl, by decide⟩
theorem displayPower : Statement .displayPower := ⟨_, _, _, rfl, by decide⟩
theorem displayBrightness : Statement .displayBrightness := ⟨_, _, _, rfl, by decide⟩
theorem busWrite : Statement .busWrite := ⟨_, _, _, rfl, by decide⟩
theorem busRead (r : List Byte) : Statement (.busRead r) := ⟨_, _, _, rfl, by decide⟩
theorem remoteButton : Statement .remoteButton := ⟨_, _, _, rfl, by decide⟩
theorem unknownCommand (c : Byte) : Statement (.unknownCommand c) := by
  by_cases h : c = remoteButtonCode
  · exact ⟨c, 6, [], by simp [encode, h], by decide⟩
  · exact ⟨c, 1, [], by simp [encode, h], by decide⟩
theorem reset : Statement .reset := ⟨_, _, _, rfl, by decide⟩
theorem rxByte (b : Byte) : Statement (.rxByte b) := ⟨_, _, _, rfl, by decide⟩
theorem txByte : Statement .txByte := ⟨_, _, _, rfl, by decide⟩
theorem tickPulse : Statement .tickPulse := ⟨_, _, _, rfl, by decide⟩
theorem irEdge (l : Level) : Statement (.irEdge l) := ⟨_, _, _, rfl, by decide⟩
theorem dispPoll (r : List Byte) : Statement (.dispPoll r) := ⟨_, _, _, rfl, by decide⟩
theorem txStart (c : Byte) (n : Half) : Statement (.txStart c n) := ⟨_, _, _, rfl, by decide⟩
theorem rxSyncOverride (b : Byte) : Statement (.rxSyncOverride b) := ⟨_, _, _, rfl, by decide⟩
theorem rxSyncMatchStep (b : Byte) : Statement (.rxSyncMatchStep b) := ⟨_, _, _, rfl, by decide⟩
theorem rxScanningSync (b : Byte) : Statement (.rxScanningSync b) := ⟨_, _, _, rfl, by decide⟩
theorem rxLengthLow (b : Byte) : Statement (.rxLengthLow b) := ⟨_, _, _, rfl, by decide⟩
theorem rxLengthHigh (b : Byte) : Statement (.rxLengthHigh b) := ⟨_, _, _, rfl, by decide⟩
theorem rxReadingData (b : Byte) : Statement (.rxReadingData b) := ⟨_, _, _, rfl, by decide⟩
theorem rxReadingChecksum (b : Byte) : Statement (.rxReadingChecksum b) := ⟨_, _, _, rfl, by decide⟩
theorem rxEmitPacket (b : Byte) : Statement (.rxEmitPacket b) := ⟨_, _, _, rfl, by decide⟩
theorem txSync : Statement .txSync := ⟨_, _, _, rfl, by decide⟩
theorem txLenLo : Statement .txLenLo := ⟨_, _, _, rfl, by decide⟩
theorem txLenHi : Statement .txLenHi := ⟨_, _, _, rfl, by decide⟩
theorem txCmd : Statement .txCmd := ⟨_, _, _, rfl, by decide⟩
theorem txPayload : Statement .txPayload := ⟨_, _, _, rfl, by decide⟩
theorem txChk : Statement .txChk := ⟨_, _, _, rfl, by decide⟩
theorem irIdle (l : Level) : Statement (.irIdle l) := ⟨_, _, _, rfl, by decide⟩
theorem irLeadMark (l : Level) : Statement (.irLeadMark l) := ⟨_, _, _, rfl, by decide⟩
theorem irLeadSpace (l : Level) : Statement (.irLeadSpace l) := ⟨_, _, _, rfl, by decide⟩
theorem irBitMark (l : Level) : Statement (.irBitMark l) := ⟨_, _, _, rfl, by decide⟩
theorem irBitSpace (l : Level) : Statement (.irBitSpace l) := ⟨_, _, _, rfl, by decide⟩
theorem irFinish (l : Level) : Statement (.irFinish l) := ⟨_, _, _, rfl, by decide⟩
theorem irRepeatCode (l : Level) : Statement (.irRepeatCode l) := ⟨_, _, _, rfl, by decide⟩
theorem irAbort (l : Level) : Statement (.irAbort l) := ⟨_, _, _, rfl, by decide⟩
theorem irRaiseEvent (a : Byte) (c : Byte) : Statement (.irRaiseEvent a c) := ⟨_, _, _, rfl, by decide⟩
theorem wireFrame (c : Byte) (p : List Byte) : Statement (.wireFrame c p) := ⟨_, _, _, rfl, by decide⟩
theorem irFrame (w : Word) : Statement (.irFrame w) := ⟨_, _, _, rfl, by decide⟩
theorem irRepeat (d : Nat) : Statement (.irRepeat d) := ⟨_, _, _, rfl, by decide⟩

end Sys2Proof.Laws.EncodeFits
end

