-- ==== Sys2Proof/Laws/Receiver.lean ====
section
/-! SUPPORT. The sync matcher in the words of the statements, and what `RX.BYTE` does: one equation, and the inversion
lemmas read off it. -/

namespace Sys2Proof.Machine

theorem bv2_cases (k : BitVec 2) : k = 0 ∨ k = 1 ∨ k = 2 ∨ k = 3 := by
  revert k; decide

theorem isOverride_iff {c : RxColumns} {b : Byte} : c.isOverride b = true ↔ CompletesSync c.rx.syncCnt b := by
  unfold RxColumns.isOverride RxColumns.syncMatches syncByte
  rcases bv2_cases c.rx.syncCnt with h | h | h | h <;> simp [h, CompletesSync]

theorem isOverride_false {c : RxColumns} {b : Byte} : c.isOverride b = false ↔ ¬ CompletesSync c.rx.syncCnt b := by
  rw [← isOverride_iff, Bool.not_eq_true]

/-- The next counter (R81), for a byte that is not the override. -/
theorem syncStep_eq {c : RxColumns} {b : Byte} (h : ¬ CompletesSync c.rx.syncCnt b) :
    c.syncStep b = { c with rx := { c.rx with syncCnt := nextSync c.rx.syncCnt b } } := by
  have key : (if c.syncMatches b then c.rx.syncCnt + 1 else 0) = nextSync c.rx.syncCnt b := by
    unfold RxColumns.syncMatches syncByte nextSync
    unfold CompletesSync at h
    rcases bv2_cases c.rx.syncCnt with hk | hk | hk | hk <;> simp_all
  unfold RxColumns.syncStep
  rw [key]

theorem rxSelected_iff {c : RxColumns} {q : RxState} {b : Byte} :
    c.selected q b = true ↔ c.rx.state = q ∧ ¬ CompletesSync c.rx.syncCnt b := by
  simp [RxColumns.selected, isOverride_false]

/-- The length `{b, rx_len[7:0]}` as a number (R85). -/
theorem decodedLen_toNat (c : RxColumns) (b : Byte) :
    (c.decodedLen b).toNat = c.rx.len.toNat % 256 + 256 * b.toNat := by
  unfold RxColumns.decodedLen halfOf halfLo
  rw [BitVec.toNat_append, BitVec.extractLsb'_toNat, ← Nat.shiftLeft_add_eq_or_of_lt (by omega)]
  have := b.isLt
  simp [Nat.shiftLeft_eq]
  omega

/-- The state after the sync override (R82). -/
abbrev overridden (s : State) : State :=
  { s with rx := { s.rx with state := .lengthLow, syncCnt := 0, chk := 0 },
           drops := if s.rx.state = .scanningSync then s.drops else s.drops ++ [.resync] }

/-- The state of the receiver after the sync matcher saw a byte that is not the override. -/
abbrev stepped (s : State) (b : Byte) : State := { s with rx := { s.rx with syncCnt := nextSync s.rx.syncCnt b } }

/-- The state after the low length byte (R84). -/
abbrev lowTaken (s : State) (b : Byte) : State :=
  { s with rx := { state := .lengthHigh, syncCnt := nextSync s.rx.syncCnt b, len := b.setWidth 16, off := s.rx.off,
                   chk := chkLen s.cfg s.rx.chk b } }

/-- The state after the high length byte (R85): the receiver's state and offset, and what the trace records. -/
abbrev highTaken (s : State) (b : Byte) (q : RxState) (off : Half) (d : Option Drop) : State :=
  { s with rx := { state := q, syncCnt := nextSync s.rx.syncCnt b, len := s.rxColumns.decodedLen b, off := off,
                   chk := chkLen s.cfg s.rx.chk b },
           drops := addDrop s.drops d }

/-- The judgement of a length (R85): zero, too long, or accepted. -/
abbrev lengthJudged (s : State) (b : Byte) : State :=
  if s.rxColumns.decodedLen b = 0 then highTaken s b .scanningSync s.rx.off (some .zeroLength)
  else if s.cfg.rxBufCap < (s.rxColumns.decodedLen b).toNat then highTaken s b .scanningSync s.rx.off (some .oversize)
  else highTaken s b .readingData 0 none

/-- The state after a data byte was stored (R86). -/
abbrev storedData (s : State) (b : Byte) : State :=
  { s with
    rx := { state := if s.rx.off.toNat + 1 = s.rx.len.toNat then .readingChecksum else .readingData,
            syncCnt := nextSync s.rx.syncCnt b, len := s.rx.len, off := s.rx.off + 1, chk := s.rx.chk ^^^ b },
    faultSeen := s.faultSeen || s.pkt.pending, rxBuf := s.rxBuf.write s.rx.off.toNat b }

/-- The state after a packet with command `c` was emitted (R87, R88). -/
abbrev emitted (s : State) (b c : Byte) : State :=
  { s with rx := { s.rx with state := .scanningSync, syncCnt := nextSync s.rx.syncCnt b },
           pkt := { pending := true, cmd := c, len := BitVec.ofNat 16 (s.rx.len.toNat - 1) } }

/-- The state after a frame with a wrong checksum was dropped (R87). -/
abbrev checksumDropped (s : State) (b : Byte) : State :=
  { s with rx := { s.rx with state := .scanningSync, syncCnt := nextSync s.rx.syncCnt b },
           drops := s.drops ++ [.checksum] }

/-- What RX.BYTE does, once and for all (R80 to R88). -/
theorem execRxByte_eq (s : State) (b : Byte) :
    execRxByte b s =
      if CompletesSync s.rx.syncCnt b then .next (overridden s)
      else match s.rx.state with
        | .scanningSync => .next (stepped s b)
        | .lengthLow => .next (lowTaken s b)
        | .lengthHigh => .next (lengthJudged s b)
        | .readingData =>
          if s.rx.off.toNat < s.cfg.rxBufCap then .next (storedData s b)
          else .fault (.indexOutOfRange .rxbuf s.rx.off.toNat)
        | .readingChecksum =>
          if b = s.rx.chk then
            if 0 < s.cfg.rxBufCap then .next (emitted s b (s.rxBuf.rxByte 0)) else .fault (.indexOutOfRange .rxbuf 0)
          else .next (checksumDropped s b) := by
  unfold execRxByte State.runRx RxColumns.receive
  beta_reduce
  by_cases h : CompletesSync s.rx.syncCnt b
  · rw [if_pos h, if_pos ((isOverride_iff (c := s.rxColumns)).2 h)]
    unfold RxColumns.syncOverride
    by_cases hq : s.rx.state = .scanningSync
    · rw [if_pos (by exact hq)]
      simp [State.putRx, storeByte, fillPacket, addDrop, State.hostFault, RxColumns.overrideRegs, hq]
    · rw [if_neg (by exact hq)]
      simp [State.putRx, storeByte, fillPacket, addDrop, State.hostFault, RxColumns.overrideRegs, hq]
  · rw [if_neg h, if_neg (mt (isOverride_iff (c := s.rxColumns)).1 h), syncStep_eq (c := s.rxColumns) h]
    unfold RxColumns.frame
    cases hq : s.rx.state <;> simp only [State.rxColumns_rx, hq]
    · simp [State.putRx, storeByte, fillPacket, addDrop, State.hostFault, hq]
    · rfl
    · unfold RxColumns.lengthHigh
      by_cases h0 : s.rxColumns.decodedLen b = 0
      · rw [if_pos (by exact h0), lengthJudged, if_pos h0]; rfl
      · rw [if_neg (by exact h0), lengthJudged, if_neg h0]
        by_cases h1 : s.cfg.rxBufCap < (s.rxColumns.decodedLen b).toNat
        · rw [if_pos (by exact h1), if_pos h1]; rfl
        · rw [if_neg (by exact h1), if_neg h1]; rfl
    · unfold RxColumns.readingData
      by_cases h0 : s.rx.off.toNat < s.cfg.rxBufCap
      · rw [if_pos (by exact h0), if_pos h0]
        simp [State.putRx, storeByte, fillPacket, addDrop, State.hostFault, RxColumns.takeData, chkData]
      · rw [if_neg (by exact h0), if_neg h0]; rfl
    · unfold RxColumns.readingChecksum
      by_cases h0 : b = s.rx.chk
      · rw [if_pos (by exact h0), if_pos h0]
        simp only [RxColumns.emitPacket, State.rxColumns_cfg, State.rxColumns_first]
        by_cases h1 : 0 < s.cfg.rxBufCap
        · rw [byteAt, if_pos h1, if_pos h1]; rfl
        · rw [byteAt, if_neg h1, if_neg h1]; rfl
      · rw [if_neg (by exact h0), if_neg h0]; rfl

/-- What RX.BYTE can do when it completes. -/
theorem execRxByte_next {s t : State} {b : Byte} (h : execRxByte b s = .next t) :
    CompletesSync s.rx.syncCnt b ∧ t = overridden s ∨
    ¬ CompletesSync s.rx.syncCnt b ∧
      (s.rx.state = .scanningSync ∧ t = stepped s b ∨
       s.rx.state = .lengthLow ∧ t = lowTaken s b ∨
       s.rx.state = .lengthHigh ∧ t = lengthJudged s b ∨
       s.rx.state = .readingData ∧ s.rx.off.toNat < s.cfg.rxBufCap ∧ t = storedData s b ∨
       s.rx.state = .readingChecksum ∧ b ≠ s.rx.chk ∧ t = checksumDropped s b ∨
       s.rx.state = .readingChecksum ∧ b = s.rx.chk ∧
         0 < s.cfg.rxBufCap ∧ t = emitted s b (s.rxBuf.rxByte 0)) := by
  rw [execRxByte_eq] at h
  split at h
  · exact .inl ⟨‹_›, next_inj.1 h⟩
  · rename_i hc
    refine .inr ⟨hc, ?_⟩
    split at h <;> rename_i hs
    · exact .inl ⟨hs, next_inj.1 h⟩
    · exact .inr (.inl ⟨hs, next_inj.1 h⟩)
    · exact .inr (.inr (.inl ⟨hs, next_inj.1 h⟩))
    · split at h
      · exact .inr (.inr (.inr (.inl ⟨hs, ‹_›, next_inj.1 h⟩)))
      · cases h
    · split at h
      · rename_i hb
        split at h
        · exact .inr (.inr (.inr (.inr (.inr ⟨hs, hb, ‹_›, next_inj.1 h⟩))))
        · cases h
      · exact .inr (.inr (.inr (.inr (.inl ⟨hs, ‹_›, next_inj.1 h⟩))))

/-- When RX.BYTE faults: a data byte past the capacity, or an emission from a buffer of no bytes (which R5 excludes). -/
theorem execRxByte_fault {s : State} {b : Byte} {f : Fault} (h : execRxByte b s = .fault f) :
    s.rx.state = .readingData ∧ s.cfg.rxBufCap ≤ s.rx.off.toNat ∨
    s.rx.state = .readingChecksum ∧ s.cfg.rxBufCap = 0 := by
  rw [execRxByte_eq] at h
  split at h
  · cases h
  · split at h <;> rename_i hs
    · cases h
    · cases h
    · cases h
    · split at h
      · cases h
      · exact .inl ⟨hs, by omega⟩
    · refine .inr ⟨hs, ?_⟩
      split at h
      · split at h
        · cases h
        · omega
      · cases h

/-- RX.BYTE is never refused. -/
theorem execRxByte_not_refused {s : State} {b : Byte} {x : Refusal} : execRxByte b s ≠ .refused x := by
  rw [execRxByte_eq]
  split
  · simp
  · split
    · simp
    · simp
    · simp
    · split <;> simp
    · split
      · split <;> simp
      · simp

/-- A row of a framing state, where it is selected, is RX.BYTE. -/
theorem execRxCase_eq {s : State} {b : Byte} :
    (s.rxColumns.selected .scanningSync b = true → execRxScanningSync b s = execRxByte b s) ∧
    (s.rxColumns.selected .lengthLow b = true → execRxLengthLow b s = execRxByte b s) ∧
    (s.rxColumns.selected .lengthHigh b = true → execRxLengthHigh b s = execRxByte b s) ∧
    (s.rxColumns.selected .readingData b = true → execRxReadingData b s = execRxByte b s) ∧
    (s.rxColumns.selected .readingChecksum b = true → execRxReadingChecksum b s = execRxByte b s) := by
  have key : ∀ (q : RxState), s.rxColumns.selected q b = true →
      s.rxColumns.receive b = (s.rxColumns.syncStep b).frame b ∧ (s.rxColumns.syncStep b).rx.state = q := by
    intro q h
    obtain ⟨hs, hc⟩ := rxSelected_iff.1 h
    exact ⟨by rw [RxColumns.receive, isOverride_false.2 hc]; rfl, hs⟩
  refine ⟨?_, ?_, ?_, ?_, ?_⟩ <;> intro h <;> obtain ⟨h1, h2⟩ := key _ h <;>
    simp only [execRxScanningSync, execRxLengthLow, execRxLengthHigh, execRxReadingData, execRxReadingChecksum,
      execRxByte, State.runRx, h, h1, whenSelected_true, RxColumns.frame, h2]

end Sys2Proof.Machine
end

