-- ==== Sys2Proof/Laws/Sender.lean ====
section
/-! SUPPORT. What `TX.BYTE` does: one equation, and the inversion lemmas read off it. -/

namespace Sys2Proof.Machine

/-- The state after a byte was transferred and the sender's registers changed to `u`. -/
abbrev sent (s : State) (b : Byte) (u : TxUnit) : State := { s with tx := u, outputs := s.outputs ++ [.tx b] }

/-- The state after the payload byte `b` was transferred (R103). -/
abbrev payloadSent (s : State) (b : Byte) : State :=
  sent s b (if s.tx.idx.toNat + 2 = s.tx.len.toNat then { s.tx with chk := chkData s.tx.chk b, state := .chk }
            else { s.tx with chk := chkData s.tx.chk b, idx := s.tx.idx + 1 })

/-- What TX.BYTE does, once and for all (R103). -/
theorem execTxByte_eq (s : State) :
    execTxByte s = match s.tx.state with
      | .idle => .next s
      | .sync =>
        match syncPattern[s.tx.idx.toNat]? with
        | none => .fault (.reservedSyncIndex s.tx.idx.toNat)
        | some b => .next (sent s b (if s.tx.idx = 3 then { s.tx with idx := 0, state := .lenLo }
                                     else { s.tx with idx := s.tx.idx + 1 }))
      | .lenLo => .next (sent s (halfLo s.tx.len)
          { s.tx with chk := chkLen s.cfg s.tx.chk (halfLo s.tx.len), state := .lenHi })
      | .lenHi => .next (sent s (halfHi s.tx.len)
          { s.tx with chk := chkLen s.cfg s.tx.chk (halfHi s.tx.len), state := .cmd })
      | .cmd => .next (sent s s.tx.cmd
          { s.tx with chk := chkData s.tx.chk s.tx.cmd, idx := 0, state := if s.tx.len = 1 then .chk else .payload })
      | .payload =>
        if s.tx.idx.toNat < 255 then .next (payloadSent s (s.respBuf.respByte s.tx.idx.toNat))
        else .fault (.indexOutOfRange .respbuf s.tx.idx.toNat)
      | .chk => .next (sent s s.tx.chk { s.tx with state := .idle }) := by
  unfold execTxByte State.runTx TxColumns.transfer
  simp only [State.txColumns_tx]
  cases hs : s.tx.state
  · rfl
  · simp only [TxColumns.sync, State.txColumns_tx]
    cases syncPattern[s.tx.idx.toNat]? with
    | none => rfl
    | some b =>
      by_cases h : s.tx.idx = 3#16 <;> simp [State.putTx, addOutput, h, hs]
  · rfl
  · rfl
  · rfl
  · simp only [TxColumns.payload, State.txColumns_tx, State.txColumns_respByte, Config.respBufCap]
    by_cases h0 : s.tx.idx.toNat < 255
    · rw [byteAt, if_pos h0, if_pos h0]
      by_cases h : s.tx.idx.toNat + 2 = s.tx.len.toNat <;> simp [State.putTx, addOutput, h, hs]
    · rw [byteAt, if_neg h0, if_neg h0]
      rfl
  · rfl

/-- What TX.BYTE can do when it completes. -/
theorem execTxByte_next {s t : State} (h : execTxByte s = .next t) :
    s.tx.state = .idle ∧ t = s ∨
    (∃ b, s.tx.state = .sync ∧ syncPattern[s.tx.idx.toNat]? = some b ∧
      t = sent s b (if s.tx.idx = 3 then { s.tx with idx := 0, state := .lenLo }
                    else { s.tx with idx := s.tx.idx + 1 })) ∨
    s.tx.state = .lenLo ∧
      t = sent s (halfLo s.tx.len) { s.tx with chk := chkLen s.cfg s.tx.chk (halfLo s.tx.len), state := .lenHi } ∨
    s.tx.state = .lenHi ∧
      t = sent s (halfHi s.tx.len) { s.tx with chk := chkLen s.cfg s.tx.chk (halfHi s.tx.len), state := .cmd } ∨
    s.tx.state = .cmd ∧
      t = sent s s.tx.cmd { s.tx with chk := chkData s.tx.chk s.tx.cmd, idx := 0,
                                      state := if s.tx.len = 1 then .chk else .payload } ∨
    s.tx.state = .payload ∧ s.tx.idx.toNat < 255 ∧ t = payloadSent s (s.respBuf.respByte s.tx.idx.toNat) ∨
    s.tx.state = .chk ∧ t = sent s s.tx.chk { s.tx with state := .idle } := by
  rw [execTxByte_eq] at h
  split at h <;> rename_i hs
  · exact .inl ⟨hs, next_inj.1 h⟩
  · split at h
    · cases h
    · exact .inr (.inl ⟨_, hs, ‹_›, next_inj.1 h⟩)
  · exact .inr (.inr (.inl ⟨hs, next_inj.1 h⟩))
  · exact .inr (.inr (.inr (.inl ⟨hs, next_inj.1 h⟩)))
  · exact .inr (.inr (.inr (.inr (.inl ⟨hs, next_inj.1 h⟩))))
  · split at h
    · exact .inr (.inr (.inr (.inr (.inr (.inl ⟨hs, ‹_›, next_inj.1 h⟩)))))
    · cases h
  · exact .inr (.inr (.inr (.inr (.inr (.inr ⟨hs, next_inj.1 h⟩)))))

/-- When TX.BYTE faults: a reserved index, or one outside RESPBUF. -/
theorem execTxByte_fault {s : State} {f : Fault} (h : execTxByte s = .fault f) :
    s.tx.state = .sync ∧ 4 ≤ s.tx.idx.toNat ∨
    s.tx.state = .payload ∧ 255 ≤ s.tx.idx.toNat := by
  rw [execTxByte_eq] at h
  split at h <;> rename_i hs
  · cases h
  · refine .inl ⟨hs, ?_⟩
    split at h
    · rename_i hb
      simpa [syncPattern] using List.getElem?_eq_none_iff.1 hb
    · cases h
  · cases h
  · cases h
  · cases h
  · refine .inr ⟨hs, ?_⟩
    split at h
    · cases h
    · omega
  · cases h

/-- TX.BYTE is never refused. -/
theorem execTxByte_not_refused {s : State} {x : Refusal} : execTxByte s ≠ .refused x := by
  rw [execTxByte_eq]
  split
  · simp
  · split <;> simp
  · simp
  · simp
  · simp
  · split <;> simp
  · simp

/-- A row of a sending state, where it is selected, is TX.BYTE. -/
theorem execTxCase_eq {s : State} :
    (s.tx.state = .sync → execTxSync s = execTxByte s) ∧ (s.tx.state = .lenLo → execTxLenLo s = execTxByte s) ∧
    (s.tx.state = .lenHi → execTxLenHi s = execTxByte s) ∧ (s.tx.state = .cmd → execTxCmd s = execTxByte s) ∧
    (s.tx.state = .payload → execTxPayload s = execTxByte s) ∧ (s.tx.state = .chk → execTxChk s = execTxByte s) := by
  refine ⟨?_, ?_, ?_, ?_, ?_, ?_⟩ <;> intro h <;>
    simp only [execTxSync, execTxLenLo, execTxLenHi, execTxCmd, execTxPayload, execTxChk, execTxByte, State.runTx,
      TxColumns.transfer, State.txColumns_tx, h, beq_self_eq_true, whenSelected_true]

end Sys2Proof.Machine
end

