-- ==== Sys2Proof/Laws/Rows.lean ====
section
/-! SUPPORT. Every instruction's next state is one of eleven effects: a row that names a case of an operation answers
what the operation answers, so that a proof over all instructions treats the five operations once each. -/

namespace Sys2Proof.Machine

/-- The byte of `RX.BYTE` and of the rows that are cases of it. -/
def rxInput : Instr → Option Byte
  | .rxByte b => some b
  | .rxSyncOverride b => some b
  | .rxScanningSync b => some b
  | .rxLengthLow b => some b
  | .rxLengthHigh b => some b
  | .rxReadingData b => some b
  | .rxReadingChecksum b => some b
  | _ => none

/-- `TX.BYTE` and the rows that are cases of it. -/
def isTxRow : Instr → Bool
  | .txByte => true
  | .txSync => true
  | .txLenLo => true
  | .txLenHi => true
  | .txCmd => true
  | .txPayload => true
  | .txChk => true
  | _ => false

/-- The line state of `IR.EDGE` and of the rows that are cases of it. -/
def irInput : Instr → Option Level
  | .irEdge l => some l
  | .irIdle l => some l
  | .irLeadMark l => some l
  | .irLeadSpace l => some l
  | .irBitMark l => some l
  | .irBitSpace l => some l
  | .irFinish l => some l
  | .irRepeatCode l => some l
  | .irAbort l => some l
  | _ => none

/-- The draw of `DISP.POLL` and of the rows that are cases of it. -/
def pollInput : Instr → Option (List Byte)
  | .dispPoll r => some r
  | .nop => some []
  | .displayFlush => some []
  | .displayPower => some []
  | .displayBrightness => some []
  | .busWrite => some []
  | .busRead r => some r
  | .remoteButton => some []
  | .unknownCommand _ => some []
  | _ => none

theorem rx_row {i : Instr} {s t : State} {b : Byte} (hi : rxInput i = some b) (h : exec i s = .next t) :
    execRxByte b s = .next t := by
  cases i <;> simp only [rxInput, Option.some.injEq, reduceCtorEq] at hi <;> subst hi
  case rxByte => exact h
  case rxSyncOverride b =>
    unfold exec execRxSyncOverride at h
    obtain ⟨c, h1, rfl⟩ := runRx_next.1 h
    obtain ⟨h1, h2⟩ := whenSelected_next.1 h1
    exact runRx_next.2 ⟨c, by rw [RxColumns.receive, if_pos h1]; exact h2, rfl⟩
  all_goals
    have h' := h
    simp only [exec, execRxScanningSync, execRxLengthLow, execRxLengthHigh, execRxReadingData, execRxReadingChecksum] at h'
    obtain ⟨c, h1, -⟩ := runRx_next.1 h'
    have hs := (whenSelected_next.1 h1).1
    first
      | exact (execRxCase_eq.1 hs) ▸ h
      | exact (execRxCase_eq.2.1 hs) ▸ h
      | exact (execRxCase_eq.2.2.1 hs) ▸ h
      | exact (execRxCase_eq.2.2.2.1 hs) ▸ h
      | exact (execRxCase_eq.2.2.2.2 hs) ▸ h

theorem tx_row {i : Instr} {s t : State} (hi : isTxRow i = true) (h : exec i s = .next t) :
    execTxByte s = .next t := by
  cases i <;> simp only [isTxRow, Bool.false_eq_true] at hi
  case txByte => exact h
  all_goals
    have h' := h
    simp only [exec, execTxSync, execTxLenLo, execTxLenHi, execTxCmd, execTxPayload, execTxChk] at h'
    obtain ⟨c, h1, -⟩ := runTx_next.1 h'
    have hs := beq_iff_eq.1 (whenSelected_next.1 h1).1
    first
      | exact (execTxCase_eq.1 hs) ▸ h
      | exact (execTxCase_eq.2.1 hs) ▸ h
      | exact (execTxCase_eq.2.2.1 hs) ▸ h
      | exact (execTxCase_eq.2.2.2.1 hs) ▸ h
      | exact (execTxCase_eq.2.2.2.2.1 hs) ▸ h
      | exact (execTxCase_eq.2.2.2.2.2 hs) ▸ h

/-- The conditions of R135, as the columns test them. -/
theorem aborts_iff {s : State} {l : Level} (hl : l ≠ s.ir.level) :
    s.irColumns.aborts l s.tick.cnt = true ↔ AbortsAttempt s l := by
  have hc : s.irColumns.cfg = s.cfg := rfl
  unfold IrColumns.aborts AbortsAttempt
  simp only [State.irColumns_ir]
  cases hp : s.ir.phase <;>
    simp only [hc, hl, ne_eq, not_false_eq_true, true_and, false_and, or_false, false_or, reduceCtorEq, Bool.not_eq_true',
      ← Bool.not_eq_true (_ && _), Bool.and_eq_true, Bool.or_eq_true, beq_iff_eq, inwin_true_iff, Bool.false_eq_true]

/-- An enabled edge that ends an attempt by the conditions of R135 aborts it. -/
theorem edgeState_of_aborts {s : State} {l : Level} (h : AbortsAttempt s l) :
    edgeState s l = attemptDropped s l .irTiming := by
  obtain ⟨-, h⟩ := h
  unfold edgeState
  rcases h with ⟨hp, h⟩ | ⟨hp, h⟩ | ⟨hp, h⟩ | ⟨hp, h⟩ <;> simp only [hp]
  · rw [if_neg h]
  · rw [if_neg (fun hc => h ⟨hc.1, .inl hc.2⟩), if_neg (fun hc => h ⟨hc.1, .inr hc.2⟩)]
  · rw [if_neg h]
  · rw [if_neg (fun hc => h ⟨hc.1, .inl hc.2⟩), if_neg (fun hc => h ⟨hc.1, .inr hc.2⟩)]

theorem ir_row {i : Instr} {s t : State} {l : Level} (hi : irInput i = some l) (h : exec i s = .next t) :
    execIrEdge l s = .next t := by
  cases i <;> simp only [irInput, Option.some.injEq, reduceCtorEq] at hi <;> subst hi
  case irEdge => exact h
  case irFinish k =>
    unfold exec execIrFinish at h
    obtain ⟨c, h1, rfl⟩ := runIr_next.1 h
    obtain ⟨h1, h2⟩ := whenSelected_next.1 h1
    simp only [Bool.and_eq_true, beq_iff_eq, irSelected_iff, inwin_true_iff] at h1
    obtain ⟨⟨⟨⟨hne, hp⟩, rfl⟩, hw⟩, hm⟩ := h1
    obtain rfl := next_inj.1 h2
    have hp : s.ir.phase = .bitMark := hp
    rw [execIrEdge_of_enabled hne, putIr_finish]
    unfold edgeState
    rw [hp]
    simp only
    rw [if_pos ⟨trivial, hw⟩, if_pos (by exact hm)]
  case irRepeatCode k =>
    unfold exec execIrRepeatCode at h
    obtain ⟨c, h1, rfl⟩ := runIr_next.1 h
    obtain ⟨h1, h2⟩ := whenSelected_next.1 h1
    simp only [Bool.and_eq_true, beq_iff_eq, irSelected_iff, inwin_true_iff, Bool.not_eq_true', inwin_false_iff] at h1
    obtain ⟨⟨⟨⟨hne, hp⟩, rfl⟩, hw⟩, hr⟩ := h1
    obtain rfl := next_inj.1 h2
    have hp : s.ir.phase = .leadSpace := hp
    rw [execIrEdge_of_enabled hne, putIr_repeatCode]
    unfold edgeState
    rw [hp]
    simp only
    rw [if_neg (fun hc => hw hc.2), if_pos ⟨trivial, hr⟩]
  case irAbort k =>
    unfold exec execIrAbort at h
    obtain ⟨c, h1, rfl⟩ := runIr_next.1 h
    obtain ⟨hsel, h2⟩ := whenSelected_next.1 h1
    rw [Bool.and_eq_true] at hsel
    have hne := irEnabled_iff.1 hsel.1
    obtain rfl := next_inj.1 h2
    rw [execIrEdge_of_enabled hne, edgeState_of_aborts ((aborts_iff hne).1 hsel.2), putIr_abort]
  all_goals
    simp only [exec, execIrIdle, execIrLeadMark, execIrLeadSpace, execIrBitMark, execIrBitSpace] at h
    obtain ⟨c, h1, rfl⟩ := runIr_next.1 h
    obtain ⟨h1, h2⟩ := whenSelected_next.1 h1
    obtain ⟨hne, hp⟩ := irSelected_iff.1 h1
    obtain rfl := next_inj.1 h2
    rw [execIrEdge_of_enabled hne, ← putIr_phaseRule, IrColumns.phaseRule, IrColumns.prologue_ir, hp] <;> rfl

/-- A code that decodes to a request is the request's code (R66). -/
theorem decodeRequest_some {c : Byte} {q : Request} (h : decodeRequest c = some q) : c = q.code := by
  unfold decodeRequest at h
  repeat' (split at h)
  all_goals simp_all
  all_goals (subst h; rfl)

theorem packetSelected_iff {c : DispColumns} {q : Option Request} :
    c.packetSelected q = true ↔ c.txState = .idle ∧ c.pkt.pending = true ∧ decodeRequest c.pkt.cmd = q := by
  simp [DispColumns.packetSelected, and_assoc]

/-- Where a command's row is selected, a poll handles the packet by the command's rule (R151). -/
theorem poll_of_selected {c : DispColumns} {q : Option Request} (r : List Byte) :
    c.packetSelected q = true → c.poll r = match q with
      | some .nop => c.nop
      | some .displayFlush => c.displayFlush
      | some .displayPower => c.displayPower
      | some .displayBrightness => c.displayBrightness
      | some .busWrite => c.busWrite
      | some .busRead => c.busRead r
      | none => .next c.unknownCommand := by
  intro h
  obtain ⟨h1, h2, h3⟩ := packetSelected_iff.1 h
  have hp : c.poll r = c.handlePacket r := by rw [DispColumns.poll, if_pos h1, if_pos h2]
  cases q with
  | none => simp only [hp, DispColumns.handlePacket, h3]
  | some q => cases q <;> simp only [hp, DispColumns.handlePacket, h3]

theorem poll_row {i : Instr} {s t : State} {r : List Byte} (hi : pollInput i = some r) (h : exec i s = .next t) :
    execDispPoll r s = .next t := by
  cases i <;> simp only [pollInput, Option.some.injEq, reduceCtorEq] at hi <;> subst hi
  case dispPoll => exact h
  case remoteButton =>
    unfold exec execRemoteButton at h
    obtain ⟨c, h1, rfl⟩ := runDisp_next.1 h
    obtain ⟨h1, h2⟩ := whenSelected_next.1 h1
    simp only [Bool.and_eq_true, beq_iff_eq, Bool.not_eq_true'] at h1
    refine runDisp_next.2 ⟨c, ?_, rfl⟩
    rw [DispColumns.poll, if_pos h1.1.1, if_neg (by rw [h1.1.2]; simp), if_pos h1.2]
    exact h2
  case unknownCommand k =>
    unfold exec execUnknownCommand at h
    obtain ⟨c, h1, rfl⟩ := runDisp_next.1 h
    obtain ⟨h1, h2⟩ := whenSelected_next.1 h1
    rw [Bool.and_eq_true] at h1
    exact runDisp_next.2 ⟨c, (poll_of_selected _ h1.1).trans h2, rfl⟩
  all_goals
    simp only [exec, execNop, execDisplayFlush, execDisplayPower, execDisplayBrightness, execBusWrite, execBusRead] at h
    obtain ⟨c, h1, rfl⟩ := runDisp_next.1 h
    obtain ⟨h1, h2⟩ := whenSelected_next.1 h1
    exact runDisp_next.2 ⟨c, (poll_of_selected _ h1).trans h2, rfl⟩

/-- The effects an instruction can have, when it completes. -/
inductive Effect : Instr → State → State → Prop where
  /-- RESET. -/
  | reset (s : State) : Effect .reset s s.resetRegs
  /-- RX.BYTE, or a row that is a case of it. -/
  | rx {i : Instr} {s t : State} (b : Byte) (hi : rxInput i = some b) (h : execRxByte b s = .next t) : Effect i s t
  /-- The sync matcher's step alone. -/
  | matched (s : State) (b : Byte) : Effect (.rxSyncMatchStep b) s (stepped s b)
  /-- Packet emission alone. -/
  | emit (s : State) (b : Byte) (hs : s.rx.state = .readingChecksum) (hb : b = s.rx.chk) :
      Effect (.rxEmitPacket b) s
        { s with pkt := { pending := true, cmd := s.rxBuf.rxByte 0, len := BitVec.ofNat 16 (s.rx.len.toNat - 1) } }
  /-- TX.BYTE, or a row that is a case of it. -/
  | tx {i : Instr} {s t : State} (hi : isTxRow i = true) (h : execTxByte s = .next t) : Effect i s t
  /-- TICK.PULSE. -/
  | tick {s t : State} (h : execTickPulse s = .next t) : Effect .tickPulse s t
  /-- IR.EDGE, or a row that is a case of it. -/
  | edge {i : Instr} {s t : State} (l : Level) (hi : irInput i = some l) (h : execIrEdge l s = .next t) : Effect i s t
  /-- DISP.POLL, or a row that is a case of it. -/
  | poll {i : Instr} {s t : State} (r : List Byte) (hi : pollInput i = some r) (h : execDispPoll r s = .next t) :
      Effect i s t
  /-- TX.START. -/
  | start (s : State) (c : Byte) (n : Half) (hs : s.tx.state = .idle) (hn : n.toNat ≤ 255) :
      Effect (.txStart c n) s { s with tx := loadedTx c n.toNat }
  /-- Raising a button event alone. -/
  | raised (s : State) (a c : Byte) :
      Effect (.irRaiseEvent a c) s { s with irBox := { pending := true, addr := a, cmd := c } }
  /-- An abbreviation: its events are put in front of those still to come. -/
  | expanded {i : Instr} (s : State) (is : List Instr)
      (hi : (∃ c p, i = .wireFrame c p) ∨ (∃ w, i = .irFrame w) ∨ ∃ d, i = .irRepeat d) : Effect i s (s.prepend is)

/-- What any instruction can do, once and for all. -/
theorem exec_effect {i : Instr} {s t : State} (h : exec i s = .next t) : Effect i s t := by
  cases i
  case reset => obtain rfl := Host.Outcome.next.inj h; exact .reset s
  case rxSyncMatchStep b =>
    unfold exec execRxSyncMatchStep at h
    obtain ⟨c, h1, rfl⟩ := runRx_next.1 h
    obtain ⟨h1, h2⟩ := whenSelected_next.1 h1
    rw [Bool.not_eq_true', isOverride_false] at h1
    rw [syncStep_eq h1] at h2
    obtain rfl := next_inj.1 h2
    exact .matched s b
  case rxEmitPacket b =>
    unfold exec execRxEmitPacket at h
    obtain ⟨c, h1, rfl⟩ := runRx_next.1 h
    obtain ⟨hsel, h2⟩ := whenSelected_next.1 h1
    rw [Bool.and_eq_true, rxSelected_iff, beq_iff_eq] at hsel
    unfold RxColumns.emitPacket at h2
    split at h2
    · rename_i k hk
      obtain rfl := next_inj.1 h2
      obtain rfl := (byteAt_ok.1 hk).2
      exact .emit s b hsel.1.1 hsel.2
    · cases h2
  case tickPulse => exact .tick h
  case txStart c n =>
    simp only [exec, execTxStart] at h
    split at h
    · rename_i hc
      obtain rfl := Host.Outcome.next.inj h
      have hn : (n.setWidth 8).toNat = n.toNat := by
        have : n.toNat ≤ 255 := hc.2
        simp only [BitVec.toNat_setWidth]
        omega
      rw [loadedTx_of, hn]
      exact .start s c n hc.1 hc.2
    · cases h
  case irRaiseEvent a c => obtain rfl := Host.Outcome.next.inj h; exact .raised s a c
  case wireFrame c p =>
    simp only [exec, execWireFrame] at h
    split at h
    · obtain rfl := Host.Outcome.next.inj h
      exact .expanded s _ (.inl ⟨c, p, rfl⟩)
    · cases h
  case irFrame w => obtain rfl := Host.Outcome.next.inj h; exact .expanded s _ (.inr (.inl ⟨w, rfl⟩))
  case irRepeat d => obtain rfl := Host.Outcome.next.inj h; exact .expanded s _ (.inr (.inr ⟨d, rfl⟩))
  all_goals first
    | exact .rx _ rfl (rx_row rfl h)
    | exact .tx rfl (tx_row rfl h)
    | exact .edge _ rfl (ir_row rfl h)
    | exact .poll _ rfl (poll_row rfl h)

end Sys2Proof.Machine
end

