-- ==== Sys2Proof/Tests/Slice0.lean ====
section
/-! SUPPORT. Our own tests: the well-formedness checks, one decoding per constructor from the match values of
30_encoding.md rules R66, R70 and 10_state.md rules R16, R22, R24, single steps with the values of 95_test_vectors.md
(named in a comment), and a witness of the premises of each statement. -/

namespace Sys2Proof.Tests

open Sys2Proof Sys2Proof.Machine

/-! ### Well-formedness refuses an ill-formed term for each check -/

theorem wf_busRead_256_bytes : (Instr.busRead (List.replicate 256 0)).wf = false := by
  simp only [Instr.wf, List.length_replicate]
  decide
theorem wf_dispPoll_256_bytes : (Instr.dispPoll (List.replicate 256 0)).wf = false := by
  simp only [Instr.wf, List.length_replicate]
  decide
theorem wf_dispPoll_255_bytes : (Instr.dispPoll (List.replicate 255 0)).wf = true := by
  simp only [Instr.wf, List.length_replicate]
  decide
theorem wf_unknown_is_request : (Instr.unknownCommand 0xA9).wf = false := by decide
theorem wf_unknown_remote_button : (Instr.unknownCommand 0xDA).wf = true := by decide
theorem wf_txStart_65535 : (Instr.txStart 0 65535).wf = false := by decide
theorem wf_txStart_65534 : (Instr.txStart 0 65534).wf = true := by decide
theorem wf_override_other_byte : (Instr.rxSyncOverride 0x57).wf = false := by decide
theorem wf_wireFrame_65535 : (Instr.wireFrame 0 (List.replicate 65535 0)).wf = false := by
  simp only [Instr.wf, List.length_replicate]
  decide

/-! ### One word per constructor -/

/-- The bytes decode to the instruction, alone, and are its encoding. -/
abbrev Codes (bytes : List Byte) (i : Instr) : Prop := decode bytes = .ok (i, []) ∧ encode i = bytes

theorem word_nop : Codes [0x00, 0x01] .nop := ⟨rfl, rfl⟩
theorem word_displayFlush : Codes [0xDE, 0x01] .displayFlush := ⟨rfl, rfl⟩
theorem word_displayPower : Codes [0xA9, 0x01] .displayPower := ⟨rfl, rfl⟩
theorem word_displayBrightness : Codes [0xBA, 0x01] .displayBrightness := ⟨rfl, rfl⟩
theorem word_busWrite : Codes [0x9A, 0x01] .busWrite := ⟨rfl, rfl⟩
theorem word_busRead : Codes [0x9B, 0x01, 0x02, 0x12, 0x34] (.busRead [0x12, 0x34]) := ⟨rfl, rfl⟩
theorem word_remoteButton : Codes [0xDA, 0x01] .remoteButton := ⟨rfl, rfl⟩
theorem word_unknownCommand : Codes [0x42, 0x01] (.unknownCommand 0x42) := ⟨rfl, rfl⟩
theorem word_unknownCommand_DA : Codes [0xDA, 0x06] (.unknownCommand 0xDA) := ⟨rfl, rfl⟩
theorem word_reset : Codes [0x00, 0x00] .reset := ⟨rfl, rfl⟩
theorem word_rxByte : Codes [0x01, 0x00, 0x91] (.rxByte 0x91) := ⟨rfl, rfl⟩
theorem word_txByte : Codes [0x02, 0x00] .txByte := ⟨rfl, rfl⟩
theorem word_tickPulse : Codes [0x03, 0x00] .tickPulse := ⟨rfl, rfl⟩
theorem word_irEdge_mark : Codes [0x04, 0x00, 0x01] (.irEdge .mark) := ⟨rfl, rfl⟩
theorem word_irEdge_space : Codes [0x04, 0x00, 0x00] (.irEdge .space) := ⟨rfl, rfl⟩
theorem word_dispPoll : Codes [0x05, 0x00, 0x02, 0xDE, 0xAD] (.dispPoll [0xDE, 0xAD]) := ⟨rfl, rfl⟩
theorem word_txStart : Codes [0x00, 0x05, 0x9B, 0x02, 0x01] (.txStart 0x9B 0x0102) := ⟨rfl, rfl⟩
theorem word_rxSyncOverride : Codes [0x01, 0x06, 0x58] (.rxSyncOverride 0x58) := ⟨rfl, rfl⟩
theorem word_rxSyncMatchStep : Codes [0x02, 0x06, 0xEB] (.rxSyncMatchStep 0xEB) := ⟨rfl, rfl⟩
theorem word_rxScanningSync : Codes [0x00, 0x02, 0x91] (.rxScanningSync 0x91) := ⟨rfl, rfl⟩
theorem word_rxLengthLow : Codes [0x01, 0x02, 0xB0] (.rxLengthLow 0xB0) := ⟨rfl, rfl⟩
theorem word_rxLengthHigh : Codes [0x02, 0x02, 0x04] (.rxLengthHigh 0x04) := ⟨rfl, rfl⟩
theorem word_rxReadingData : Codes [0x03, 0x02, 0xA9] (.rxReadingData 0xA9) := ⟨rfl, rfl⟩
theorem word_rxReadingChecksum : Codes [0x04, 0x02, 0xAA] (.rxReadingChecksum 0xAA) := ⟨rfl, rfl⟩
theorem word_rxEmitPacket : Codes [0x03, 0x06, 0xAA] (.rxEmitPacket 0xAA) := ⟨rfl, rfl⟩
theorem word_txSync : Codes [0x01, 0x03] .txSync := ⟨rfl, rfl⟩
theorem word_txLenLo : Codes [0x02, 0x03] .txLenLo := ⟨rfl, rfl⟩
theorem word_txLenHi : Codes [0x03, 0x03] .txLenHi := ⟨rfl, rfl⟩
theorem word_txCmd : Codes [0x04, 0x03] .txCmd := ⟨rfl, rfl⟩
theorem word_txPayload : Codes [0x05, 0x03] .txPayload := ⟨rfl, rfl⟩
theorem word_txChk : Codes [0x06, 0x03] .txChk := ⟨rfl, rfl⟩
theorem word_irIdle : Codes [0x00, 0x04, 0x01] (.irIdle .mark) := ⟨rfl, rfl⟩
theorem word_irLeadMark : Codes [0x01, 0x04, 0x00] (.irLeadMark .space) := ⟨rfl, rfl⟩
theorem word_irLeadSpace : Codes [0x02, 0x04, 0x01] (.irLeadSpace .mark) := ⟨rfl, rfl⟩
theorem word_irBitMark : Codes [0x03, 0x04, 0x00] (.irBitMark .space) := ⟨rfl, rfl⟩
theorem word_irBitSpace : Codes [0x04, 0x04, 0x01] (.irBitSpace .mark) := ⟨rfl, rfl⟩
theorem word_irFinish : Codes [0x04, 0x06, 0x00] (.irFinish .space) := ⟨rfl, rfl⟩
theorem word_irRepeatCode : Codes [0x05, 0x06, 0x01] (.irRepeatCode .mark) := ⟨rfl, rfl⟩
theorem word_irAbort : Codes [0x06, 0x06, 0x01] (.irAbort .mark) := ⟨rfl, rfl⟩
theorem word_irRaiseEvent : Codes [0x07, 0x06, 0x10, 0x20] (.irRaiseEvent 0x10 0x20) := ⟨rfl, rfl⟩
theorem word_wireFrame : Codes [0x00, 0x07, 0xA9, 0x01, 0x00, 0x01] (.wireFrame 0xA9 [0x01]) := ⟨rfl, rfl⟩
theorem word_irFrame : Codes [0x01, 0x07, 0x10, 0xEF, 0x20, 0xDF] (.irFrame 0x10EF20DF) := ⟨rfl, rfl⟩
theorem word_irRepeat : Codes [0x02, 0x07, 0xB0, 0x04] (.irRepeat 560) := ⟨rfl, by decide⟩
theorem word_irRepeat_100000 : Codes [0x02, 0x07, 0xA0, 0x8D, 0x06] (.irRepeat 100000) := ⟨rfl, by decide +kernel⟩

theorem word_empty_refused : decode [] = .error .truncated := rfl
theorem word_unknown_format_refused : decode [0x00, 0x08] = .error .unknownFormat := rfl
theorem word_reserved_event_refused : decode [0x07, 0x00] = .error .unknownCode := rfl
theorem word_open_duration_refused : decode [0x02, 0x07, 0x80] = .error .truncated := rfl
theorem word_bad_level_refused : decode [0x04, 0x00, 0x02] = .error .badLevel := rfl

/-! ### Single steps -/

/-- The next state an answer carries. -/
def after (r : Result) : Option State :=
  match r with
  | .next s => some s
  | _ => none

/-- The reset state with the receiver's registers set. -/
def rxAt (q : RxState) (k : BitVec 2) (len off : Half) (chk : Byte) : State :=
  { State.reset with rx := { state := q, syncCnt := k, len := len, off := off, chk := chk } }

/-- The reset state with the sender's registers set and `12 34` in `resp_buf` (TV1). -/
def txAt (q : TxState) (idx : Half) (chk : Byte) : State :=
  { State.reset with tx := { state := q, idx := idx, len := 3, cmd := 0x9B, chk := chk }
                     respLen := 2, respBuf := [(0, 0x12), (1, 0x34)] }

/-- The reset state with the decoder in a phase after `d` ticks, the last frame `(AA, 55)` (IV2). -/
def irAt (p : IrPhase) (l : Level) (d : Nat) : State :=
  { State.reset with tick := { en := true, cnt := d }
                     ir := { State.reset.ir with phase := p, level := l, lastValid := true, lastAddr := 0xAA,
                                                 lastCmd := 0x55 } }

/-- The reset state with a packet pending: command, payload length, and the bytes of `rx_buf`. -/
def pktAt (c : Byte) (n : Half) (m : Memory) : State :=
  { State.reset with pkt := { pending := true, cmd := c, len := n }, rxBuf := m }

/-- The receiver's registers after an instruction. -/
def rxAfter (i : Instr) (s : State) : Option RxUnit := (after (exec i s)).map (·.rx)

/-- The sender's registers and the outputs after an instruction. -/
def txAfter (i : Instr) (s : State) : Option (TxUnit × List Output) := (after (exec i s)).map fun t => (t.tx, t.outputs)

/-- The decoder's phase, the IR mailbox and the drops after an instruction. -/
def irAfter (i : Instr) (s : State) : Option (IrPhase × IrBox × List Drop) :=
  (after (exec i s)).map fun t => (t.ir.phase, t.irBox, t.drops)

/-- The pins of a cycle in which nothing happens: the IR input is high, which is SPACE (R14). -/
def quietPins : Pins := { rst := false, rx := none, txReady := false, tickPulse := false, irIn := true, poll := none }

/-- The outputs, the drops, the packet flag and the length of the frame being sent after an instruction. -/
def pollAfter (i : Instr) (s : State) : Option (List Output × List Drop × Bool × Half) :=
  (after (exec i s)).map fun t => (t.outputs, t.drops, t.pkt.pending, t.tx.len)

-- RV3: a mismatch clears the counter.
theorem test_rxByte_mismatch :
    rxAfter (.rxByte 0x12) (rxAt .scanningSync 2 0 0 0) = some { state := .scanningSync, syncCnt := 0, len := 0, off := 0, chk := 0 } := by decide
-- RV5: the mismatching byte is not compared again.
theorem test_rxByte_first_again :
    rxAfter (.rxByte 0x91) (rxAt .scanningSync 1 0 0 0) = some { state := .scanningSync, syncCnt := 0, len := 0, off := 0, chk := 0 } := by decide
-- RV8: the override wins over the checksum compare.
theorem test_rxSyncOverride_beats_checksum :
    rxAfter (.rxSyncOverride 0x58) (rxAt .readingChecksum 3 5 5 0x58) = some { state := .lengthLow, syncCnt := 0, len := 5, off := 5, chk := 0 } := by decide
-- RV4.
theorem test_rxSyncOverride_drops :
    (after (exec (.rxSyncOverride 0x58) (rxAt .readingChecksum 3 5 5 0x23))).map (·.drops) = some [.resync] := by decide
-- RV4, the matcher alone.
theorem test_rxSyncMatchStep :
    rxAfter (.rxSyncMatchStep 0xFA) (rxAt .readingData 2 5 2 7) = some { state := .readingData, syncCnt := 3, len := 5, off := 2, chk := 7 } := by decide
-- RV1.
theorem test_rxScanningSync :
    rxAfter (.rxScanningSync 0x91) (rxAt .scanningSync 0 0 0 0) = some { state := .scanningSync, syncCnt := 1, len := 0, off := 0, chk := 0 } := by decide
-- RV12: the length byte 91 also steps the matcher.
theorem test_rxLengthLow_sync_byte :
    rxAfter (.rxLengthLow 0x91) (rxAt .lengthLow 0 0 0 0) = some { state := .lengthHigh, syncCnt := 1, len := 145, off := 0, chk := 0x91 } := by decide
-- RV6: 1200 is accepted.
theorem test_rxLengthHigh_accepts_1200 :
    rxAfter (.rxLengthHigh 0x04) (rxAt .lengthHigh 0 0xB0 7 0xB0) = some { state := .readingData, syncCnt := 0, len := 1200, off := 0, chk := 0xB4 } := by decide
-- RV12: 60305 is dropped.
theorem test_rxLengthHigh_oversize_60305 :
    rxAfter (.rxLengthHigh 0xEB) (rxAt .lengthHigh 1 145 0 0x91) = some { state := .scanningSync, syncCnt := 2, len := 60305, off := 0, chk := 0x7A } := by decide
-- RV1: the command byte.
theorem test_rxReadingData_more :
    rxAfter (.rxReadingData 0xA9) (rxAt .readingData 0 2 0 0x02) = some { state := .readingData, syncCnt := 0, len := 2, off := 1, chk := 0xAB } := by decide
-- RV1: the last byte.
theorem test_rxReadingData_last :
    rxAfter (.rxReadingData 0x01) (rxAt .readingData 0 2 1 0xAB) = some { state := .readingChecksum, syncCnt := 0, len := 2, off := 2, chk := 0xAA } := by decide
-- RV2.
theorem test_rxReadingChecksum_bad :
    (after (exec (.rxReadingChecksum 0xA8) (rxAt .readingChecksum 0 2 2 0xAA))).map (fun t => (t.rx.state, t.pkt, t.drops)) =
      some (.scanningSync, State.reset.pkt, [.checksum]) := by decide
-- RV1.
theorem test_rxReadingChecksum_good :
    (after (exec (.rxReadingChecksum 0xAA) { rxAt .readingChecksum 0 2 2 0xAA with rxBuf := [(0, 0xA9), (1, 1)] })).map (·.pkt) =
      some { pending := true, cmd := 0xA9, len := 1 } := by decide
-- P4.
theorem test_rxEmitPacket :
    (after (exec (.rxEmitPacket 0xBE) { rxAt .readingChecksum 0 3 3 0xBE with rxBuf := [(0, 0x9B), (1, 0x12), (2, 0x34)] })).map (fun t => (t.pkt, t.rx.state)) =
      some ({ pending := true, cmd := 0x9B, len := 2 }, .readingChecksum) := by decide
-- TV1.
theorem test_txSync_fourth :
    txAfter .txSync (txAt .sync 3 0) = some ({ state := .lenLo, idx := 0, len := 3, cmd := 0x9B, chk := 0 }, [.tx 0x58]) := by decide
-- TV1.
theorem test_txByte_third :
    txAfter .txByte (txAt .sync 2 0) = some ({ state := .sync, idx := 3, len := 3, cmd := 0x9B, chk := 0 }, [.tx 0xFA]) := by decide
-- TV1.
theorem test_txLenLo :
    txAfter .txLenLo (txAt .lenLo 0 0) = some ({ state := .lenHi, idx := 0, len := 3, cmd := 0x9B, chk := 3 }, [.tx 3]) := by decide
-- TV1.
theorem test_txLenHi :
    txAfter .txLenHi (txAt .lenHi 0 3) = some ({ state := .cmd, idx := 0, len := 3, cmd := 0x9B, chk := 3 }, [.tx 0]) := by decide
-- TV1.
theorem test_txCmd :
    txAfter .txCmd (txAt .cmd 0 3) = some ({ state := .payload, idx := 0, len := 3, cmd := 0x9B, chk := 0x98 }, [.tx 0x9B]) := by decide
-- TV1.
theorem test_txPayload_more :
    txAfter .txPayload (txAt .payload 0 0x98) = some ({ state := .payload, idx := 1, len := 3, cmd := 0x9B, chk := 0x8A }, [.tx 0x12]) := by decide
-- TV1.
theorem test_txPayload_last :
    txAfter .txPayload (txAt .payload 1 0x8A) = some ({ state := .chk, idx := 1, len := 3, cmd := 0x9B, chk := 0xBE }, [.tx 0x34]) := by decide
-- TV1.
theorem test_txChk :
    txAfter .txChk (txAt .chk 1 0xBE) = some ({ state := .idle, idx := 1, len := 3, cmd := 0x9B, chk := 0xBE }, [.tx 0xBE]) := by decide
-- TV1: an eleventh TXRDY does nothing.
theorem test_txByte_idle :
    txAfter .txByte (txAt .idle 1 0xBE) = some ({ state := .idle, idx := 1, len := 3, cmd := 0x9B, chk := 0xBE }, []) := by decide
-- TV3.
theorem test_txCmd_no_payload :
    (after (exec .txCmd { txAt .cmd 0 1 with tx.len := 1 })).map (·.tx.state) = some .chk := by decide
-- TV1.
theorem test_txStart :
    txAfter (.txStart 0x9B 2) (txAt .idle 9 7) = some ({ state := .sync, idx := 0, len := 3, cmd := 0x9B, chk := 0 }, []) := by decide
-- R101: `tx_len <- zext_16(n) + 1`, with n other than `resp_len`.
theorem test_txStart_other_count :
    txAfter (.txStart 0x9B 255) (txAt .idle 9 7) = some ({ state := .sync, idx := 0, len := 256, cmd := 0x9B, chk := 0 }, []) := by decide
-- Table of section 4.
theorem test_tickPulse :
    (after (exec .tickPulse (irAt .leadMark .mark 559))).map (·.tick.cnt) = some 560 := by decide
-- Table of section 4.
theorem test_tickPulse_saturates :
    (after (exec .tickPulse (irAt .leadMark .mark (2 ^ 32 - 1)))).map (·.tick.cnt) = some (2 ^ 32 - 1) := by decide
-- Section 7: RESET keeps the buffers.
theorem test_reset :
    after (exec .reset (txAt .payload 0 0x98)) =
      some { State.reset with respBuf := [(0, 0x12), (1, 0x34)] } := by decide
-- IV1.
theorem test_irIdle_mark :
    irAfter (.irIdle .mark) (irAt .idle .space 0) = some (.leadMark, State.reset.irBox, []) := by decide
-- IV5: the closing edge is ignored.
theorem test_irEdge_ignored :
    irAfter (.irEdge .space) (irAt .idle .mark 0) = some (.idle, State.reset.irBox, []) := by decide
-- IV2.
theorem test_irLeadMark_11700 :
    irAfter (.irLeadMark .space) (irAt .leadMark .mark 11700) = some (.leadSpace, State.reset.irBox, []) := by decide
-- IV2.
theorem test_irLeadMark_11701 :
    irAfter (.irLeadMark .space) (irAt .leadMark .mark 11701) = some (.idle, State.reset.irBox, [.irTiming]) := by decide
-- IV2.
theorem test_irLeadSpace_3150 :
    irAfter (.irLeadSpace .mark) (irAt .leadSpace .space 3150) = some (.bitMark, State.reset.irBox, []) := by decide
-- IV2.
theorem test_irLeadSpace_3149 :
    irAfter (.irLeadSpace .mark) (irAt .leadSpace .space 3149) = some (.idle, State.reset.irBox, [.irTiming]) := by decide
-- IV2.
theorem test_irRepeatCode_1575 :
    irAfter (.irRepeatCode .mark) (irAt .leadSpace .space 1575) = some (.idle, { pending := true, addr := 0xAA, cmd := 0x55 }, []) := by decide
-- IV2.
theorem test_irEdge_repeat_2925 :
    irAfter (.irEdge .mark) (irAt .leadSpace .space 2925) = some (.idle, { pending := true, addr := 0xAA, cmd := 0x55 }, []) := by decide
-- IV2.
theorem test_irBitMark_728 :
    irAfter (.irBitMark .space) (irAt .bitMark .mark 728) = some (.bitSpace, State.reset.irBox, []) := by decide
-- IV2.
theorem test_irBitMark_729 :
    irAfter (.irBitMark .space) (irAt .bitMark .mark 729) = some (.idle, State.reset.irBox, [.irTiming]) := by decide
-- S4a, IV2.
theorem test_irBitSpace_2197 :
    (after (exec (.irBitSpace .mark) (irAt .bitSpace .space 2197))).map (fun t => (t.ir.phase, t.ir.word, t.ir.bitIdx)) = some (.bitMark, 1, 1) := by decide
-- S4b, IV2.
theorem test_irBitSpace_2198 :
    irAfter (.irBitSpace .mark) (irAt .bitSpace .space 2198) = some (.idle, State.reset.irBox, [.irTiming]) := by decide
-- IV6.
theorem test_irAbort_900 :
    irAfter (.irAbort .mark) (irAt .bitSpace .space 900) = some (.idle, State.reset.irBox, [.irTiming]) := by decide
/-- The decoder in the final mark of a frame. -/
def finalMark (w : Word) : State :=
  { irAt .bitMark .mark 560 with ir.word := w, ir.bitIdx := 32, ir.lastMark := true }

-- S3a.
theorem test_irFinish_accepts :
    (after (exec (.irFinish .space) (finalMark 0x10EF20DF))).map (fun t => (t.irBox, t.ir.lastAddr, t.tick.en)) =
      some ({ pending := true, addr := 0x10, cmd := 0x20 }, 0x10, false) := by decide
-- S3b.
theorem test_irFinish_corrupted :
    irAfter (.irFinish .space) (finalMark 0x10EF20DE) = some (.idle, State.reset.irBox, [.irComplement]) := by decide
-- IV8.
theorem test_irRaiseEvent_overwrites :
    (after (exec (.irRaiseEvent 0x11 0x21) { State.reset with irBox := { pending := true, addr := 0x10, cmd := 0x20 } })).map (·.irBox) =
      some { pending := true, addr := 0x11, cmd := 0x21 } := by decide
-- Section 6: a payload is ignored.
theorem test_nop :
    pollAfter .nop (pktAt 0x00 3 [(0, 0), (1, 1), (2, 2), (3, 3)]) = some ([], [], false, 1) := by decide
-- Section 6.
theorem test_displayPower_on :
    pollAfter .displayPower (pktAt 0xA9 1 [(0, 0xA9), (1, 0xFF)]) = some ([.call .powerOn], [], false, 1) := by decide
-- Section 6.
theorem test_displayPower_off :
    pollAfter .displayPower (pktAt 0xA9 2 [(0, 0xA9), (1, 0), (2, 1)]) = some ([.call .powerOff], [], false, 1) := by decide
-- Section 6.
theorem test_displayBrightness :
    pollAfter .displayBrightness (pktAt 0xBA 1 [(0, 0xBA), (1, 0x7F)]) = some ([.call (.setBrightness 0x7F)], [], false, 1) := by decide
-- Section 6.
theorem test_displayBrightness_short :
    pollAfter .displayBrightness (pktAt 0xBA 0 [(0, 0xBA)]) = some ([], [.shortPayload], false, 1) := by decide
-- Section 6.
theorem test_busWrite :
    pollAfter .busWrite (pktAt 0x9A 3 [(0, 0x9A), (1, 0x3C), (2, 0), (3, 0xAF)]) = some ([.call (.busWrite 0x3C [0, 0xAF])], [], false, 1) := by decide
-- Section 6.
theorem test_busWrite_no_data :
    pollAfter .busWrite (pktAt 0x9A 1 [(0, 0x9A), (1, 0x3C)]) = some ([.call (.busWrite 0x3C [])], [], false, 1) := by decide
-- Section 6.
theorem test_busRead :
    pollAfter (.busRead [0x12, 0x34]) (pktAt 0x9B 2 [(0, 0x9B), (1, 0x3C), (2, 2)]) = some ([.call (.busRead 0x3C 2)], [], false, 3) := by decide
-- Section 6.
theorem test_busRead_stores :
    (after (exec (.busRead [0xAB, 0xCD]) (pktAt 0x9B 4 [(0, 0x9B), (1, 0x3C), (2, 2), (3, 9), (4, 9)]))).map (fun t => (t.respBuf, t.respLen)) =
      some ([(0, 0xAB), (1, 0xCD)], 2) := by decide
-- Section 6: 1023 bytes are too few.
theorem test_displayFlush_short :
    pollAfter .displayFlush (pktAt 0xDE 1023 []) = some ([], [.shortPayload], false, 1) := by decide
-- Section 6: nothing is sent.
theorem test_unknownCommand :
    pollAfter (.unknownCommand 0x42) (pktAt 0x42 0 [(0, 0x42)]) = some ([], [.unknownCommand], false, 0) := by decide
-- Section 6.
theorem test_unknownCommand_DA :
    pollAfter (.unknownCommand 0xDA) (pktAt 0xDA 2 [(0, 0xDA), (1, 0x10), (2, 0x20)]) = some ([], [.unknownCommand], false, 0) := by decide
-- P2.
theorem test_remoteButton :
    (after (exec .remoteButton { State.reset with irBox := { pending := true, addr := 0x10, cmd := 0x20 } })).map (fun t => (t.respBuf, t.tx, t.irBox.pending)) =
      some ([(0, 0x10), (1, 0x20)], { state := .sync, idx := 0, len := 3, cmd := 0xDA, chk := 0 }, false) := by decide
-- DV2.
theorem test_dispPoll_packet_first :
    (after (exec (.dispPoll []) { pktAt 0x00 0 [(0, 0)] with irBox := { pending := true, addr := 0x10, cmd := 0x20 } })).map (fun t => (t.pkt.pending, t.irBox.pending)) =
      some (false, true) := by decide
-- DV3.
theorem test_dispPoll_nothing :
    after (exec (.dispPoll []) State.reset) = some State.reset := by decide
-- P1.
theorem test_wireFrame :
    (after (exec (.wireFrame 0xA9 [0x01]) State.reset)).map (·.events) =
      some (encodeAll ([0x91, 0xEB, 0xFA, 0x58, 0x02, 0x00, 0xA9, 0x01, 0xAA].map .rxByte)) := by decide
-- R73 by hand, with short durations.
theorem test_irRepeat_starts :
    (after (exec (.irRepeat 2) { State.reset with cfg := { tLeadMark := 1, tRepeatSpace := 1 } })).map (·.events) =
      some [4, 0, 1, 3, 0, 4, 0, 0, 3, 0, 4, 0, 1, 3, 0, 3, 0, 4, 0, 0] := by decide
-- R73 DRAIN on TV1: the last two bytes of the frame.
theorem test_drain :
    (after (execAll (drainScript (txAt .payload 1 0x8A).tx) (txAt .payload 1 0x8A))).map (fun t => (t.tx.state, t.outputs)) =
      some (.idle, [.tx 0x34, .tx 0xBE]) := by decide
-- R64 by hand: 68 edges of 3 bytes; the ticks of the leader, 33 bit marks, 16 zeros and 16 ones, 2 bytes each.
theorem test_irFrame_length :
    (after (exec (.irFrame 0x10EF20DF) { State.reset with cfg := { tLeadMark := 1, tLeadSpace := 1, tBitMark := 1, tZeroSpace := 1, tOneSpace := 2 } })).map (·.events.length) =
      some (68 * 3 + (1 + 1 + 33 + 16 * 1 + 16 * 2) * 2) := by decide +kernel
-- R117 through the event stream: TICK.PULSE while the tick source is off.
theorem test_step_runs_the_word :
    step (State.reset.withFetchWord 8 3) = .next State.reset := rfl
-- R88 through the event stream: the word 04 02 with the checksum byte 00 of the shortest frame.
theorem test_step_completes_a_frame :
    (after (step (State.reset.withFetchWord 16 0x0204))).map (·.pkt) = some { pending := true, cmd := 0, len := 0 } := by decide
-- R103 through the event stream: the word 05 03, the last payload byte.
theorem test_step_sends_a_payload_byte :
    (after (step (State.reset.withFetchWord 16 0x0305))).map (fun t => (t.tx.state, t.outputs)) = some (.chk, [.tx 0]) := by decide
-- R15: the driver port in the cycle of the poll, and in the same cycle without it.
theorem test_drvPort :
    drvPort quietPins (pktAt 0xA9 1 [(0, 0xA9), (1, 0xFF)]) = none ∧
    drvPort { quietPins with poll := some [] } (pktAt 0xA9 1 [(0, 0xA9), (1, 0xFF)]) = some .powerOn := by decide
-- R6: no event is offered.
theorem test_step_waits :
    step State.reset = .next State.reset := rfl

/-! ### Witnesses: a concrete state and operands that meet the premises of each statement, at the boundaries of each
clause -/

/-- A state that meets the invariant in the middle of everything: a data byte of a frame stored, a packet pending, a
response being sent, a decode attempt running, and a `TICK.PULSE` next in the stream. -/
def busyState : State :=
  { rx := { state := .readingData, syncCnt := 0, len := 3, off := 1, chk := 0 }
    pkt := { pending := true, cmd := 0xA9, len := 0 }
    tx := { state := .payload, idx := 1, len := 3, cmd := 0x9B, chk := 0 }
    tick := { en := true, cnt := 7 }
    ir := { State.reset.ir with level := .mark, phase := .bitMark, bitIdx := 32, lastMark := true }
    irBox := { pending := true, addr := 1, cmd := 2 }
    rxBuf := [(0, 0xA9)], respBuf := [(0, 0x12), (1, 0x34)], respLen := 2
    cfg := {}, events := [3, 0], outputs := [], drops := [], faultSeen := false }

theorem written_one (v : Byte) : WrittenBelow [(0, v)] 1 := by
  intro i hi
  obtain rfl : i = 0 := by omega
  rfl

theorem written_two (v w : Byte) : WrittenBelow [(0, v), (1, w)] 2 := by
  intro i hi
  obtain rfl | rfl : i = 0 ∨ i = 1 := by omega
  · rfl
  · rfl

theorem listed_two (v w : Byte) : ListedBelow [(0, v), (1, w)] 255 := by
  intro i hi
  by_contra hn
  simp [Memory.read, show i ≠ 0 by omega, show i ≠ 1 by omega] at hi

theorem listed_one (v : Byte) : ListedBelow [(0, v)] 1200 := by
  intro i hi
  by_contra hn
  simp [Memory.read, show i ≠ 0 by omega] at hi

theorem busyState_inv : busyState.Inv where
  legal := by decide
  rxBufWf := rfl
  respBufWf := rfl
  rxBufBound := listed_one _
  respBufBound := listed_two _ _
  readingData := by decide
  readingChecksum := by decide
  tickIdle := by decide
  tickZero := by decide
  tickFits := by decide
  bitIdx := by decide
  lastMark := by decide
  bitSpace := by decide
  bitMark := by decide
  leader := by decide
  idleClear := by decide
  markPhases := by decide
  spacePhases := by decide
  txLen := by decide
  txSync := by decide
  txPayload := by decide
  pktLen := by decide
  dataWritten := fun _ => written_one _
  frameWritten := by decide
  packetWritten := fun _ => written_one _
  respWritten := written_two _ _

/-- `busyState` in the payload of a TX.START of five bytes with `resp_len = 2`: a TX.BYTE for the third is next. -/
def overlongState : State := { busyState with tx.len := 6, tx.idx := 2, events := [2, 0] }

theorem overlongState_inv : overlongState.Inv :=
  { busyState_inv with txLen := by decide, txSync := by decide, txPayload := by decide }

theorem witness_StepKeepsInvariant :
    busyState.Inv ∧ busyState.SendsResponse ∧ decode busyState.events = .ok (.tickPulse, []) ∧
    step busyState = .next { busyState with tick := { en := true, cnt := 8 }, events := [] } :=
  ⟨busyState_inv, by decide, rfl, rfl⟩
/-- A response and, with an unwritten byte to send, a payload longer than the response. -/
theorem witness_InvariantRulesOutFaults :
    busyState.Inv ∧ busyState.SendsResponse ∧ busyState.tx.state = .payload ∧
    overlongState.Inv ∧ ¬ overlongState.SendsResponse ∧ overlongState.respBuf.read 2 = none :=
  ⟨busyState_inv, by decide, rfl, overlongState_inv, by decide, rfl⟩
/-- R103 on an unwritten byte: TX.BYTE transfers the free value that stands there. -/
theorem test_txByte_unwritten :
    (after (step overlongState)).map (·.outputs) = some [.tx (Config.unwrittenResp 2)] := rfl
theorem witness_SyncPatternRearmsReceiver : busyState.Inv ∧ busyState.rx.syncCnt = 0 := ⟨busyState_inv, rfl⟩
theorem witness_DecodeInvertsEncode : (Instr.irRepeat 100000).wf = true ∧ (Instr.unknownCommand 0xDA).wf = true := by
  decide
theorem witness_DecodeGivesWellFormed : decode [4, 0, 1, 9] = .ok (.irEdge .mark, [9]) := rfl
theorem witness_StepRunsDecodedInstruction :
    decode busyState.events = .ok (.tickPulse, []) ∧ State.reset.events = [] ∧
    ({ State.reset with events := [9, 9] } : State).events ≠ [] ∧ decode [9, 9] = .error .unknownFormat :=
  ⟨rfl, rfl, by decide, rfl⟩
theorem witness_SyncMatcherWritesOnlyCounter :
    (rxAt .scanningSync 2 0 0 0).rx.state = .scanningSync ∧ ¬ CompletesSync 2 0xFA ∧ ¬ CompletesSync 3 0xFA := by decide
theorem witness_SyncOverrideRestartsFraming :
    (rxAt .readingData 3 5 2 0).rx.syncCnt = 3 ∧ (rxAt .scanningSync 3 0 0 0).rx.syncCnt = 3 := by decide
theorem witness_LengthLowCapturesLowByte :
    (rxAt .lengthLow 0 0 0 0).rx.state = .lengthLow ∧ ¬ CompletesSync 0 0xFF ∧ ¬ CompletesSync 0 0x00 := by decide
/-- L at 0, 1, the capacity 1200, 1201 and 65535. -/
theorem witness_LengthHighJudgesLength :
    (∀ p ∈ [((0x00 : Half), (0x00 : Byte), 0), (0x01, 0x00, 1), (0xB0, 0x04, 1200), (0xB1, 0x04, 1201),
        (0xFF, 0xFF, 65535)],
      (rxAt .lengthHigh 0 p.1 0 0).rx.state = .lengthHigh ∧ ¬ CompletesSync 0 p.2.1 ∧
      p.2.2 = (rxAt .lengthHigh 0 p.1 0 0).rx.len.toNat % 256 + 256 * p.2.1.toNat) ∧
    State.reset.cfg.rxBufCap = 1200 := by decide
/-- The first, the last but one and the last byte of a frame, and the last byte of the buffer. -/
theorem witness_ReadingDataStoresByte :
    (rxAt .readingData 0 1200 1199 0).rx.state = .readingData ∧ ¬ CompletesSync 0 0x58 ∧
    (0 : Half).toNat < 1200 ∧ (1 : Half).toNat + 1 = (2 : Half).toNat ∧ (1198 : Half).toNat < 1200 ∧
    (rxAt .readingData 0 1200 1199 0).rx.off.toNat < (rxAt .readingData 0 1200 1199 0).cfg.rxBufCap := by
  refine ⟨rfl, by decide, by decide, by decide, by decide, ?_⟩
  show 1199 < 1200
  omega
theorem witness_WrongChecksumIsDropped :
    (rxAt .readingChecksum 0 2 2 0xAA).rx.state = .readingChecksum ∧ ¬ CompletesSync 0 0xA8 ∧
    (0xA8 : Byte) ≠ (rxAt .readingChecksum 0 2 2 0xAA).rx.chk := by decide
/-- A state waiting for the checksum `AA` of the frame `A9 01`. -/
def checksumState : State := { rxAt .readingChecksum 0 2 2 0xAA with rxBuf := [(0, 0xA9), (1, 1)] }
theorem witness_RightChecksumEmitsPacket :
    checksumState.rx.state = .readingChecksum ∧ ¬ CompletesSync 0 0xAA ∧ (0xAA : Byte) = checksumState.rx.chk ∧
    0 < checksumState.cfg.rxBufCap ∧ 0xA9 = checksumState.rxBuf.rxByte 0 := by decide
theorem witness_ReceiverTransitionTable :
    rxAfter (.rxByte 0x04) (rxAt .lengthHigh 0 0xB0 7 0xB0) ≠ none := by decide
/-- Two states that agree on the columns RX.BYTE reads and on nothing else, at emission and at a stored byte. -/
theorem witness_RxByteKeepsToItsColumns :
    (∀ p ∈ [((0xAA : Byte), checksumState), (0x01, { rxAt .readingData 0 2 1 0xAB with rxBuf := [(0, 0xA9)] })],
      rxAfter (.rxByte p.1) p.2 ≠ none ∧ { busyState with rx := p.2.rx }.cfg = p.2.cfg ∧
      { busyState with rx := p.2.rx }.rxBuf.rxByte 0 = p.2.rxBuf.rxByte 0 ∧
      rxAfter (.rxByte p.1) { busyState with rx := p.2.rx } ≠ none) := by decide
theorem witness_OversizeLengthStoresNothing :
    (rxAt .lengthHigh 0 0xB1 0 0).rx.state = .lengthHigh ∧ ¬ CompletesSync 0 0x04 ∧
    (rxAt .lengthHigh 0 0xB1 0 0).cfg.rxBufCap < 0xB1 % 256 + 256 * (0x04 : Byte).toNat ∧
    rxAfter (.rxByte 0x04) (rxAt .lengthHigh 0 0xB1 0 0) ≠ none := by decide
theorem witness_ScanPredictsSyncCounter :
    (after (execAll (rxScript [0x91, 0xEB]) State.reset)).map (·.rx.syncCnt) = some 2 := by decide
/-- The state after the four sync bytes, in the middle of a frame of five bytes. -/
def cutShort : State := { rxAt .readingData 0 5 2 0xA3 with rxBuf := [(0, 0x9A), (1, 0x3C)] }
theorem witness_FrameRoundTrip :
    1025 ≤ cutShort.cfg.rxBufCap ∧ cutShort.cfg.rxBufCap ≤ 65535 ∧ [(0x01 : Byte)].length ≤ cutShort.cfg.rxBufCap - 1 ∧
    cutShort.rx.syncCnt = 0 ∧ cutShort.pkt.pending = false ∧
    (∃ u, execAll (rxScript [0x91, 0xEB, 0xFA, 0x58]) cutShort = .next u ∧ u.pkt.pending = false) ∧
    (scan 0 (frameBody cutShort.cfg 0xA9 [0x01])).1 = false :=
  ⟨by decide, by decide, by decide, rfl, rfl, ⟨_, rfl, rfl⟩, rfl⟩
/-- The flips of RV10 (a payload bit), of the command's lowest bit and of the checksum's highest bit, from `cutShort`. -/
theorem witness_FlippedBitIsDropped :
    1025 ≤ cutShort.cfg.rxBufCap ∧ cutShort.cfg.rxBufCap ≤ 65535 ∧ [(0x01 : Byte)].length ≤ cutShort.cfg.rxBufCap - 1 ∧
    cutShort.rx.syncCnt = 0 ∧ cutShort.pkt.pending = false ∧
    (∃ u, execAll (rxScript [0x91, 0xEB, 0xFA, 0x58]) cutShort = .next u ∧ u.pkt.pending = false) ∧
    (∀ q ∈ [((3 : Nat), (4 : Nat), (0x01 : Byte), [(0x02 : Byte), 0x00, 0xA9, 0x11, 0xAA]),
        (2, 0, 0xA9, [0x02, 0x00, 0xA8, 0x01, 0xAA]), (4, 7, 0xAA, [0x02, 0x00, 0xA9, 0x01, 0x2A])],
      2 ≤ q.1 ∧ q.2.1 < 8 ∧ (frameBody cutShort.cfg 0xA9 [0x01])[q.1]? = some q.2.2.1 ∧
      q.2.2.2 = (frameBody cutShort.cfg 0xA9 [0x01]).set q.1 (q.2.2.1 ^^^ BitVec.ofNat 8 (2 ^ q.2.1)) ∧
      (scan 0 q.2.2.2).1 = false) :=
  ⟨by decide, by decide, by decide, rfl, rfl, ⟨_, rfl, rfl⟩, by decide⟩
/-- Both clauses at their bounds: 0 and 255 bytes, `resp_len` or not; busy, and 256 bytes. -/
theorem witness_TxStartLoadsSender :
    State.reset.tx.state = .idle ∧ (0 : Half).toNat = State.reset.respLen.toNat ∧ (255 : Half).toNat ≤ 255 ∧
    (255 : Half).toNat ≠ State.reset.respLen.toNat ∧ (txAt .sync 0 0).tx.state ≠ .idle ∧ 255 < (256 : Half).toNat := by
  decide
theorem witness_TxSyncSendsPattern :
    (txAt .sync 3 0).tx.state = .sync ∧ [(0x91 : Byte), 0xEB, 0xFA, 0x58][(txAt .sync 3 0).tx.idx.toNat]? = some 0x58 ∧
    [(0x91 : Byte), 0xEB, 0xFA, 0x58][(txAt .sync 0 0).tx.idx.toNat]? = some 0x91 := ⟨rfl, rfl, rfl⟩
theorem witness_TxHeaderAndChecksumBytes :
    (txAt .lenLo 0 0).tx.state = .lenLo ∧ (txAt .lenHi 0 0).tx.state = .lenHi ∧ (txAt .cmd 0 0).tx.state = .cmd ∧
    (txAt .chk 0 0).tx.state = .chk := ⟨rfl, rfl, rfl, rfl⟩
theorem witness_TxPayloadSendsResponseByte :
    (txAt .payload 1 0).tx.state = .payload ∧ (txAt .payload 1 0).tx.idx.toNat < 255 ∧
    0x34 = (txAt .payload 1 0).respBuf.respByte 1 := by decide
theorem witness_SenderTransmitsEncodedFrame :
    (txAt .idle 0 0).tx.state = .idle ∧ [(0x12 : Byte), 0x34].length ≤ 255 ∧
    (∀ i, i < 2 → [(0x12 : Byte), 0x34][i]? = some ((txAt .idle 0 0).respBuf.respByte i)) := by decide
theorem witness_IdleEdgeStartsAttempt :
    (irAt .idle .space 0).ir.phase = .idle ∧ (irAt .idle .space 0).ir.level = .space ∧
    (irAt .idle .mark 0).ir.phase = .idle ∧ (irAt .idle .mark 0).ir.level = .mark := ⟨rfl, rfl, rfl, rfl⟩
/-- The leading mark at 6300 and 11700, and just outside (IV2). -/
theorem witness_LeadingMarkIsTimed :
    (irAt .leadMark .mark 6300).ir.phase = .leadMark ∧ Level.space ≠ (irAt .leadMark .mark 6300).ir.level ∧
    InWindow 6300 9000 ∧ InWindow 11700 9000 ∧ ¬ InWindow 6299 9000 ∧ ¬ InWindow 11701 9000 := by decide
/-- The leading space: new frame at 3150 and 5850, repeat at 1575 and 2925, neither at 1574, 2926, 3149, 5851. -/
theorem witness_LeadingSpaceIsClassified :
    (irAt .leadSpace .space 3150).ir.phase = .leadSpace ∧ Level.mark ≠ (irAt .leadSpace .space 3150).ir.level ∧
    (∀ d ∈ [3150, 5850], InWindow d 4500 ∧ ¬ InWindow d 2250) ∧
    (∀ d ∈ [1575, 2925], ¬ InWindow d 4500 ∧ InWindow d 2250) ∧
    (∀ d ∈ [1574, 2926, 3149, 5851], ¬ InWindow d 4500 ∧ ¬ InWindow d 2250) := by decide
theorem witness_BitMarkIsTimed :
    (irAt .bitMark .mark 392).ir.phase = .bitMark ∧ Level.space ≠ (irAt .bitMark .mark 392).ir.level ∧
    InWindow 392 560 ∧ InWindow 728 560 ∧ ¬ InWindow 391 560 ∧ ¬ InWindow 729 560 ∧
    (irAt .bitMark .mark 392).ir.lastMark = false ∧ (finalMark 0).ir.lastMark = true := by decide
theorem witness_BitSpaceShiftsBitIn :
    (irAt .bitSpace .space 728).ir.phase = .bitSpace ∧ Level.mark ≠ (irAt .bitSpace .space 728).ir.level ∧
    (∀ d ∈ [392, 728], InWindow d 560) ∧ (∀ d ∈ [1183, 2197], ¬ InWindow d 560 ∧ InWindow d 1690) ∧
    (∀ d ∈ [391, 729, 1182, 2198], ¬ InWindow d 560 ∧ ¬ InWindow d 1690) := by decide
/-- A frame with both complements right, and one with the last bit flipped (S3). -/
theorem witness_FinishJudgesComplements :
    (finalMark 0x10EF20DF).ir.phase = .bitMark ∧ (finalMark 0x10EF20DF).ir.level = .mark ∧
    (finalMark 0x10EF20DF).ir.lastMark = true ∧ InWindow (finalMark 0x10EF20DF).tick.cnt 560 ∧
    (0x10EF20DF : Word).toNat = ((0x10 * 256 + 0xEF) * 256 + 0x20) * 256 + 0xDF ∧
    (0x10EF20DE : Word).toNat = ((0x10 * 256 + 0xEF) * 256 + 0x20) * 256 + 0xDE := by decide
theorem witness_RepeatCodeResendsLastFrame :
    (irAt .leadSpace .space 2925).ir.phase = .leadSpace ∧ (irAt .leadSpace .space 2925).ir.level = .space ∧
    ¬ InWindow 2925 4500 ∧ InWindow 2925 2250 ∧ ¬ InWindow 1575 4500 ∧ InWindow 1575 2250 := by decide
/-- One abort in each phase: a wrong direction in the mark phases is ruled out by R34, so the durations are wrong; one
of the wrong direction, in a state that no run reaches. -/
theorem witness_OutOfWindowAborts :
    AbortsAttempt (irAt .leadMark .mark 11701) .space ∧ AbortsAttempt (irAt .leadSpace .space 3149) .mark ∧
    AbortsAttempt (irAt .bitMark .mark 729) .space ∧ AbortsAttempt (irAt .bitSpace .space 2198) .mark ∧
    AbortsAttempt (irAt .leadMark .space 9000) .mark := by
  refine ⟨?_, ?_, ?_, ?_, ?_⟩ <;> unfold AbortsAttempt <;> decide
theorem witness_DecoderTransitionTable : Level.mark ≠ State.reset.ir.level := by decide
theorem witness_IrFrameRaisesOneEvent :
    ConfigLegal State.reset.cfg ∧ State.reset.ir.phase = .idle ∧ State.reset.ir.level = .space ∧
    (0x00FFFF00 : Word).toNat = ((0x00 * 256 + 0xFF) * 256 + 0xFF) * 256 + 0x00 ∧
    InWindow 6300 9000 ∧ InWindow 5850 4500 ∧ InWindow 392 560 ∧ (List.replicate 32 728).length = 32 ∧
    (∀ m ∈ List.replicate 32 728, InWindow m 560) ∧
    (List.replicate 8 392 ++ List.replicate 16 2197 ++ List.replicate 8 392).length = 32 ∧
    (∀ k, k < 32 → InWindow ((List.replicate 8 392 ++ List.replicate 16 2197 ++ List.replicate 8 392)[k]?.getD 0)
      (if (0x00FFFF00 : Word).getLsbD (31 - k) = true then 1690 else 560)) := by decide
theorem witness_NopIsAnswered : PacketWaits (pktAt 0x00 3 []) 0x00 := by decide
/-- The 1024 payload bytes of a framebuffer (section 6 of 95_test_vectors.md). -/
@[irreducible] def framebuffer : List Byte := (List.range 1024).map fun i => BitVec.ofNat 8 (5 * i + 1)
theorem framebuffer_length : framebuffer.length = 1024 := by
  unfold framebuffer
  rw [List.length_map, List.length_range]
/-- The reset state with that payload pending. -/
def flushState : State := pktAt 0xDE 1024 (Memory.writeAll [] 1 framebuffer)
theorem witness_FlushPassesFramebuffer :
    PacketWaits flushState 0xDE ∧ PayloadIs flushState framebuffer ∧ 1024 ≤ framebuffer.length := by
  have hl : flushState.pkt.len.toNat = framebuffer.length := by rw [framebuffer_length]; rfl
  have hc : framebuffer.length < flushState.cfg.rxBufCap := by rw [framebuffer_length]; decide
  have hb : flushState.rxBuf = Memory.writeAll [] 1 framebuffer := rfl
  refine ⟨⟨rfl, rfl, rfl⟩, ⟨hl, hc, fun i hi => ?_⟩, by rw [framebuffer_length]⟩
  rw [hb, Memory.rxByte, Memory.read_writeAll, if_pos ⟨by omega, by omega⟩, Nat.add_sub_cancel_left,
    List.getElem?_eq_getElem hi, Option.getD_some]
theorem witness_PowerCallsOnOrOff :
    PacketWaits (pktAt 0xA9 1 [(0, 0xA9), (1, 0)]) 0xA9 ∧ PayloadIs (pktAt 0xA9 1 [(0, 0xA9), (1, 0)]) [0] ∧
    PayloadIs (pktAt 0xA9 1 [(0, 0xA9), (1, 0xFF)]) [0xFF] := by decide
theorem witness_BrightnessPassesLevel :
    PacketWaits (pktAt 0xBA 1 [(0, 0xBA), (1, 0x7F)]) 0xBA ∧ PayloadIs (pktAt 0xBA 1 [(0, 0xBA), (1, 0x7F)]) [0x7F] := by
  decide
theorem witness_BusWritePassesData :
    PacketWaits (pktAt 0x9A 1 [(0, 0x9A), (1, 0x3C)]) 0x9A ∧ PayloadIs (pktAt 0x9A 1 [(0, 0x9A), (1, 0x3C)]) [0x3C] ∧
    PayloadIs (pktAt 0x9A 3 [(0, 0x9A), (1, 0x3C), (2, 0), (3, 0xAF)]) [0x3C, 0, 0xAF] := by decide
/-- A draw of exactly `count` bytes, and one byte fewer. -/
theorem witness_BusReadReturnsDraw :
    PacketWaits (pktAt 0x9B 2 [(0, 0x9B), (1, 0x3C), (2, 2)]) 0x9B ∧
    PayloadIs (pktAt 0x9B 2 [(0, 0x9B), (1, 0x3C), (2, 2)]) [0x3C, 2] ∧
    (2 : Byte).toNat ≤ [(0x12 : Byte), 0x34].length ∧ [(0x12 : Byte)].length < (2 : Byte).toNat := by decide
theorem witness_ShortPayloadIsAnswered :
    PacketWaits (pktAt 0xDE 1023 []) 0xDE ∧ (pktAt 0xDE 1023 []).pkt.len.toNat < 1024 ∧
    PacketWaits (pktAt 0xA9 0 []) 0xA9 ∧ PacketWaits (pktAt 0xBA 0 []) 0xBA ∧ PacketWaits (pktAt 0x9A 0 []) 0x9A ∧
    (pktAt 0x9A 0 []).pkt.len.toNat < 1 ∧ PacketWaits (pktAt 0x9B 1 []) 0x9B ∧ (pktAt 0x9B 1 []).pkt.len.toNat < 2 := by
  decide
/-- The reset state with an IR event pending. -/
def eventState : State := { State.reset with irBox := { pending := true, addr := 0x10, cmd := 0x20 } }
theorem witness_RemoteButtonIsSent :
    eventState.tx.state = .idle ∧ eventState.pkt.pending = false ∧ eventState.irBox.pending = true := ⟨rfl, rfl, rfl⟩
theorem witness_UnknownCommandIsDropped :
    PacketWaits (pktAt 0xDA 2 []) 0xDA ∧ (0xDA : Byte) ∉ [(0x00 : Byte), 0xDE, 0xA9, 0xBA, 0x9A, 0x9B] := by decide
/-- Two states that agree on the columns DISP.POLL reads and on nothing else: a packet answered with a call, an event
sent, and nothing to do. -/
theorem witness_PollKeepsToItsColumns :
    (∀ s ∈ [{ pktAt 0xBA 1 [(0, 0xBA), (1, 0x7F)] with irBox := eventState.irBox }, eventState, State.reset],
      pollAfter (.dispPoll []) s ≠ none ∧
      { busyState with pkt := s.pkt, irBox := s.irBox, tx.state := s.tx.state, rxBuf := [(1, 0x7F)] }.cfg = s.cfg ∧
      (s.pkt.len.toNat = 1 → s.rxBuf.rxByte 1 = Memory.rxByte [(1, 0x7F)] 1) ∧ s.pkt.len.toNat ≤ 1 ∧
      pollAfter (.dispPoll [])
        { busyState with pkt := s.pkt, irBox := s.irBox, tx.state := s.tx.state, rxBuf := [(1, 0x7F)] } ≠ none) := by
  decide
theorem witness_EventsNotEnabled :
    State.reset.tx.state = .idle ∧ (txAt .sync 0 0).tx.state ≠ .idle ∧ State.reset.pkt.pending = false ∧
    State.reset.irBox.pending = false := by decide
/-- Each condition missed by one conjunct alone, at the boundary of its window. -/
theorem witness_UnselectedRowsRefused :
    State.reset.rx.state ≠ .lengthLow ∧ ¬ CompletesSync State.reset.rx.syncCnt 0x58 ∧ CompletesSync 3 0x58 ∧
    (1 : Byte) ≠ State.reset.rx.chk ∧ State.reset.tx.state ≠ .sync ∧ State.reset.ir.phase ≠ .leadMark ∧
    ((finalMark 0).ir.lastMark = true ∧ ¬ InWindow 729 (finalMark 0).cfg.tBitMark) ∧
    ((irAt .bitMark .mark 728).ir.lastMark = false ∧ InWindow 728 (irAt .bitMark .mark 728).cfg.tBitMark) ∧
    (InWindow 3150 State.reset.cfg.tLeadSpace ∧ ¬ InWindow 2926 State.reset.cfg.tRepeatSpace ∧
      ¬ InWindow 2926 State.reset.cfg.tLeadSpace) ∧
    (¬ AbortsAttempt (irAt .bitMark .mark 728) .space ∧ ¬ AbortsAttempt (irAt .idle .space 0) .mark ∧
      ¬ AbortsAttempt (irAt .leadSpace .space 2925) .mark) ∧
    ¬ PacketWaits State.reset 0xA9 ∧
    (PacketWaits (pktAt 0xA9 0 []) 0xA9 ∧ (0xA9 : Byte) ∈ [(0x00 : Byte), 0xDE, 0xA9, 0xBA, 0x9A, 0x9B]) ∧
    State.reset.irBox.pending ≠ true := by
  refine ⟨by decide, by decide, by decide, by decide, by decide, by decide, by decide, by decide, by decide,
    ⟨?_, ?_, ?_⟩, by decide, by decide, by decide⟩ <;> unfold AbortsAttempt <;> decide
/-- FRAME at its bound and one byte above; DRAIN in the middle of a response and with nothing to send. -/
theorem witness_FormatsExpandToEvents :
    (List.replicate 65534 (0 : Byte)).length ≤ 65534 ∧ 65534 < (List.replicate 65535 (0 : Byte)).length ∧
    busyState.Inv ∧ busyState.tx.bytesLeft = 2 ∧ overlongState.Inv ∧ overlongState.tx.bytesLeft = 4 ∧
    State.reset.tx.bytesLeft = 0 := by
  rw [List.length_replicate, List.length_replicate]
  exact ⟨by decide, by decide, busyState_inv, rfl, overlongState_inv, rfl, rfl⟩
theorem witness_StreamRunsScript :
    ∀ i ∈ [Instr.reset, .rxByte 0x91, .txByte, .tickPulse, .irEdge .mark, .dispPoll [1]],
      isEventRow i = true ∧ i.wf = true := by decide
theorem witness_FaultMarkIsSticky :
    busyState.faultSeen = false ∧ (after (exec (.rxByte 1) busyState)).map (·.faultSeen) = some true ∧
    (after (exec .reset { busyState with faultSeen := true })).map (·.faultSeen) = some false := by decide
theorem witness_MailboxFlagDiscipline :
    (after (exec (.rxByte 0xAA) checksumState)).map (·.pkt.pending) = some true ∧
    (after (exec (.dispPoll []) eventState)).map (·.irBox.pending) = some false ∧
    (after (exec (.irEdge .space) (finalMark 0x10EF20DF))).map (·.irBox.pending) = some true := by decide
/-- A state that agrees with `busyState` on the columns TX.BYTE, TICK.PULSE and IR.EDGE read, and on nothing else. -/
def otherState : State :=
  { pktAt 0x42 0 [(5, 5)] with
    tx := busyState.tx
    tick := busyState.tick
    ir := busyState.ir
    respBuf := [(1, 0x34)] }
theorem witness_TxTickIrKeepToTheirColumns :
    (∀ s ∈ [busyState, otherState],
      (after (exec .txByte s)).isSome = true ∧ (after (exec .tickPulse s)).isSome = true ∧
      (after (exec (.irEdge .space) s)).isSome = true ∧ s.cfg = busyState.cfg ∧
      s.respBuf.respByte busyState.tx.idx.toNat = busyState.respBuf.respByte busyState.tx.idx.toNat) := by decide
theorem witness_OneDropOneOutputAtMost : (after (exec .txPayload busyState)).isSome = true := by decide
theorem witness_IndependentUnitsCommute :
    (after (exec (.rxByte 1) busyState)).isSome = true ∧ (after (exec .txByte busyState)).isSome = true ∧
    (after (exec .tickPulse busyState)).isSome = true ∧ (after (exec (.irEdge .space) busyState)).isSome = true ∧
    (after (exec (.dispPoll []) busyState)).isSome = true := by decide
/-- Reset; all five events in one cycle; the tick and the edge only; a byte and a poll only; a transfer offered with
nothing to send. -/
theorem witness_CycleOrdersCoincidentEvents :
    (Level.space = .mark ↔ true = busyState.cfg.irMarkLevel) ∧ (Level.mark = .mark ↔ false = busyState.cfg.irMarkLevel) ∧
    (after (cycle { quietPins with rst := true } busyState)).isSome = true ∧
    (∀ pins ∈ [{ quietPins with rx := some 1, txReady := true, tickPulse := true, poll := some [] },
        { quietPins with tickPulse := true }, { quietPins with irIn := false, rx := some 1, poll := some [] }],
      pins.rst = false ∧ (after (cycle pins busyState)).isSome = true) ∧
    (after (cycle { quietPins with txReady := true } State.reset)).isSome = true := by decide
theorem witness_TickPulseCountsAndSaturates :
    ((irAt .leadMark .mark (2 ^ 32 - 2)).tick.cnt < 2 ^ 32 - 1 ∧ (irAt .leadMark .mark 0).tick.en = true) ∧
    ¬ (irAt .leadMark .mark (2 ^ 32 - 1)).tick.cnt < 2 ^ 32 - 1 ∧ State.reset.tick.en = false := by decide

end Sys2Proof.Tests
end

section
/-! The Frame Receiver (R80 to R88, R96). Each statement about a framing state is one case of `execRxByte_eq`; the row
that names the state answers what `RX.BYTE` answers (`exec_framingRow`). -/

namespace Sys2Proof.Machine

/-! ### The rows that name a case of RX.BYTE -/

/-- A row answers what its step function answers where its selecting condition holds (log entry 3). -/
theorem runRx_selected {s : State} {sel : RxColumns → Bool} {f : RxColumns → Answer RxColumns} {c : RxColumns}
    (hsel : sel s.rxColumns = true) (hf : f s.rxColumns = .next c) :
    s.runRx (fun c => whenSelected (sel c) (f c)) = .next (s.putRx c) :=
  runRx_next.2 ⟨c, whenSelected_next.2 ⟨hsel, hf⟩, rfl⟩

/-- The row of the opcode table that names a framing state (R96). -/
def framingRow (b : Byte) : RxState → Instr
  | .scanningSync => .rxScanningSync b
  | .lengthLow => .rxLengthLow b
  | .lengthHigh => .rxLengthHigh b
  | .readingData => .rxReadingData b
  | .readingChecksum => .rxReadingChecksum b

/-- A framing state's row is RX.BYTE in that state, for a byte that is not the override. -/
theorem exec_framingRow {s : State} {b : Byte} (hc : ¬ CompletesSync s.rx.syncCnt b) :
    exec (framingRow b s.rx.state) s = execRxByte b s := by
  have hsel : s.rxColumns.selected s.rx.state b = true := rxSelected_iff.2 ⟨rfl, hc⟩
  obtain ⟨hscan, hlow, hhigh, hdata, hchk⟩ := execRxCase_eq (s := s) (b := b)
  cases hs : s.rx.state <;> rw [hs] at hsel
  case scanningSync => exact hscan hsel
  case lengthLow => exact hlow hsel
  case lengthHigh => exact hhigh hsel
  case readingData => exact hdata hsel
  case readingChecksum => exact hchk hsel

/-- What RX.BYTE answers in a framing state, both the operation and the state's row answer. -/
theorem bothAnswer_framingRow {s t : State} {b : Byte} {q : RxState} (hs : s.rx.state = q)
    (hc : ¬ CompletesSync s.rx.syncCnt b) (h : execRxByte b s = .next t) :
    BothAnswer (.rxByte b) (framingRow b q) s t :=
  ⟨h, hs ▸ (exec_framingRow hc).trans h⟩

/-- The override's row, where it is selected, is RX.BYTE. -/
theorem exec_rxSyncOverride {s : State} {b : Byte} (hc : CompletesSync s.rx.syncCnt b) :
    exec (.rxSyncOverride b) s = execRxByte b s := by
  have ho : s.rxColumns.isOverride b = true := isOverride_iff.2 hc
  simp only [exec, execRxSyncOverride, execRxByte, State.runRx, RxColumns.receive, ho, whenSelected_true, if_true]

/-- The sync matcher alone steps the counter (R81). -/
theorem exec_rxSyncMatchStep {s : State} {b : Byte} (hc : ¬ CompletesSync s.rx.syncCnt b) :
    exec (.rxSyncMatchStep b) s = .next (stepped s b) := by
  have hsel : (!s.rxColumns.isOverride b) = true := by rw [isOverride_false.2 hc]; rfl
  have hrun : exec (.rxSyncMatchStep b) s = .next (s.putRx (s.rxColumns.syncStep b)) := by
    unfold exec execRxSyncMatchStep
    exact runRx_selected (sel := fun c => !c.isOverride b) hsel rfl
  rw [hrun, syncStep_eq (c := s.rxColumns) hc]
  rfl

/-- Emission answers the packet of R88 where RXBUF has a first byte. -/
theorem emitPacket_next {c : RxColumns} (hcap : 0 < c.cfg.rxBufCap) :
    c.emitPacket = .next { c with packet := some (c.first, BitVec.ofNat 16 (c.rx.len.toNat - 1)) } := by
  rw [RxColumns.emitPacket, byteAt_ok.2 ⟨hcap, rfl⟩]

/-- The emission alone fills the packet mailbox (R88). -/
theorem exec_rxEmitPacket {s : State} (hs : s.rx.state = .readingChecksum)
    (hc : ¬ CompletesSync s.rx.syncCnt s.rx.chk) (hcap : 0 < s.cfg.rxBufCap) :
    exec (.rxEmitPacket s.rx.chk) s = .next
      { s with pkt := { pending := true, cmd := s.rxBuf.rxByte 0, len := BitVec.ofNat 16 (s.rx.len.toNat - 1) } } := by
  have hsel : (s.rxColumns.selected .readingChecksum s.rx.chk && s.rx.chk == s.rxColumns.rx.chk) = true :=
    Bool.and_eq_true_iff.2 ⟨rxSelected_iff.2 ⟨hs, hc⟩, beq_self_eq_true _⟩
  unfold exec execRxEmitPacket
  exact runRx_selected (sel := fun c => c.selected .readingChecksum s.rx.chk && s.rx.chk == c.rx.chk) hsel
    (emitPacket_next hcap)

/-! ### RX.BYTE in each case -/

section
variable {s : State} {b : Byte}

/-- R82. -/
theorem execRxByte_override (hc : CompletesSync s.rx.syncCnt b) : execRxByte b s = .next (overridden s) := by
  rw [execRxByte_eq, if_pos hc]

/-- R83. -/
theorem execRxByte_scanningSync (hs : s.rx.state = .scanningSync) (hc : ¬ CompletesSync s.rx.syncCnt b) :
    execRxByte b s = .next (stepped s b) := by
  simp only [execRxByte_eq, if_neg hc, hs]

/-- R84. -/
theorem execRxByte_lengthLow (hs : s.rx.state = .lengthLow) (hc : ¬ CompletesSync s.rx.syncCnt b) :
    execRxByte b s = .next (lowTaken s b) := by
  simp only [execRxByte_eq, if_neg hc, hs]

/-- R85. -/
theorem execRxByte_lengthHigh (hs : s.rx.state = .lengthHigh) (hc : ¬ CompletesSync s.rx.syncCnt b) :
    execRxByte b s = .next (lengthJudged s b) := by
  simp only [execRxByte_eq, if_neg hc, hs]

/-- R86. -/
theorem execRxByte_readingData (hs : s.rx.state = .readingData) (hc : ¬ CompletesSync s.rx.syncCnt b)
    (ho : s.rx.off.toNat < s.cfg.rxBufCap) : execRxByte b s = .next (storedData s b) := by
  simp only [execRxByte_eq, if_neg hc, hs, if_pos ho]

/-- R87 and R88, the byte that matches. -/
theorem execRxByte_rightChecksum (hs : s.rx.state = .readingChecksum) (hc : ¬ CompletesSync s.rx.syncCnt b)
    (hb : b = s.rx.chk) (hcap : 0 < s.cfg.rxBufCap) :
    execRxByte b s = .next (emitted s b (s.rxBuf.rxByte 0)) := by
  simp only [execRxByte_eq, if_neg hc, hs, if_pos hb, if_pos hcap]

end

/-! ### The length as a number (R85) -/

/-- The length register holds the number `rx_len[7:0] + 256 * b`. -/
theorem decodedLen_eq_ofNat (c : RxColumns) (b : Byte) :
    c.decodedLen b = BitVec.ofNat 16 (c.rx.len.toNat % 256 + 256 * b.toNat) := by
  rw [← decodedLen_toNat, BitVec.ofNat_toNat, BitVec.setWidth_eq]

theorem decodedLen_eq_zero_iff {c : RxColumns} {b : Byte} :
    c.decodedLen b = 0 ↔ c.rx.len.toNat % 256 + 256 * b.toNat = 0 := by
  rw [BitVec.toNat_eq, decodedLen_toNat]; rfl

/-- The judgement of a length, by its number. -/
theorem lengthJudged_eq (s : State) (b : Byte) {L : Nat} (hL : L = s.rx.len.toNat % 256 + 256 * b.toNat) :
    lengthJudged s b =
      if L = 0 then highTaken s b .scanningSync s.rx.off (some .zeroLength)
      else if s.cfg.rxBufCap < L then highTaken s b .scanningSync s.rx.off (some .oversize)
      else highTaken s b .readingData 0 none := by
  subst hL
  exact if_congr decodedLen_eq_zero_iff rfl (if_congr (by rw [decodedLen_toNat, State.rxColumns_rx]) rfl rfl)

/-- The receiver's state after the judgement: R96's two rows for `LengthHigh`. -/
theorem lengthJudged_rx_state (s : State) (b : Byte) {L : Nat} (hL : L = s.rx.len.toNat % 256 + 256 * b.toNat) :
    (lengthJudged s b).rx.state = if 1 ≤ L ∧ L ≤ s.cfg.rxBufCap then .readingData else .scanningSync := by
  rw [lengthJudged_eq s b hL]
  by_cases hzero : L = 0
  · rw [if_pos hzero, if_neg (by omega)]
  · by_cases hover : s.cfg.rxBufCap < L
    · rw [if_neg hzero, if_pos hover, if_neg (by omega)]
    · rw [if_neg hzero, if_neg hover, if_pos (by omega)]

/-! ### The statements -/

/-- Settles O15: the cases of `execRxByte_next` are the rows of the table of R96. -/
theorem receiverTransitionTable : Obligations.ReceiverTransitionTable := by
  intro s t b h
  unfold rxTable
  obtain ⟨hc, rfl⟩ | ⟨hc, hcase⟩ := execRxByte_next h
  · rw [if_pos hc]
  · rw [if_neg hc]
    obtain ⟨hs, rfl⟩ | ⟨hs, rfl⟩ | ⟨hs, rfl⟩ | ⟨hs, -, rfl⟩ | ⟨hs, -, rfl⟩ | ⟨hs, -, -, rfl⟩ := hcase
    case inr.inr.inr.inl => rw [hs]; exact lengthJudged_rx_state s b rfl
    all_goals simp only [hs]

/-- Settles O8. -/
theorem syncMatcherWritesOnlyCounter : Obligations.SyncMatcherWritesOnlyCounter := fun _ _ hc =>
  ⟨exec_rxSyncMatchStep hc, fun hs => bothAnswer_framingRow hs hc (execRxByte_scanningSync hs hc)⟩

/-- Settles O9. -/
theorem syncOverrideRestartsFraming : Obligations.SyncOverrideRestartsFraming := fun s hk =>
  have hc : CompletesSync s.rx.syncCnt 0x58 := ⟨hk, rfl⟩
  have h := execRxByte_override hc
  ⟨h, (exec_rxSyncOverride hc).trans h⟩

/-- Settles O10. -/
theorem lengthLowCapturesLowByte : Obligations.LengthLowCapturesLowByte := by
  intro s b hs hc
  rw [BitVec.ofNat_toNat]
  exact bothAnswer_framingRow hs hc (execRxByte_lengthLow hs hc)

/-- Settles O11: the three outcomes of `lengthJudged_eq`, with the length register as a number. -/
theorem lengthHighJudgesLength : Obligations.LengthHighJudgesLength := by
  intro s b L hs hc hL
  have hlen : s.rxColumns.decodedLen b = BitVec.ofNat 16 L := by rw [hL]; exact decodedLen_eq_ofNat _ _
  have hjudged := lengthJudged_eq s b hL
  simp only [highTaken, hlen] at hjudged
  exact hjudged ▸ bothAnswer_framingRow hs hc (execRxByte_lengthHigh hs hc)

/-- Settles O12. -/
theorem readingDataStoresByte : Obligations.ReadingDataStoresByte := fun s b hs hc ho =>
  ⟨storedData s b, bothAnswer_framingRow hs hc (execRxByte_readingData hs hc ho), rfl,
    Memory.read_write_same _ _ _, fun _ hi => Memory.read_write_other _ _ hi⟩

/-- Settles O14. -/
theorem rightChecksumEmitsPacket : Obligations.RightChecksumEmitsPacket := by
  rintro s b c hs hc rfl hcap rfl
  exact ⟨bothAnswer_framingRow hs hc (execRxByte_rightChecksum hs hc rfl hcap), exec_rxEmitPacket hs hc hcap⟩

end Sys2Proof.Machine
end

section
/-! The Tick Source (R117). `TICK.PULSE` has two cases, by `TickUnit.Counts`: the counter is stepped, or the state stays
as it is. -/

namespace Sys2Proof.Machine

/-- The guard of R117: the tick source is enabled and `tick_cnt` is below its largest value. -/
def TickUnit.Counts (cfg : Config) (u : TickUnit) : Prop := u.en = true ∧ u.cnt < tickMax cfg

variable {s : State}

/-- R117 where the guard holds: the step function adds one to the count. -/
theorem pulse_of_counts (h : s.tick.Counts s.cfg) :
    s.tickColumns.pulse = { s.tickColumns with cnt := s.tick.cnt + 1 } := if_pos h

/-- R117 where the guard fails, the tick source being disabled or the count saturated: the columns are kept. -/
theorem pulse_of_not_counts (h : ¬ s.tick.Counts s.cfg) : s.tickColumns.pulse = s.tickColumns := if_neg h

/-- Writing back the columns just read changes nothing. -/
theorem putTick_tickColumns (s : State) : s.putTick s.tickColumns = s := rfl

/-- `TICK.PULSE` always completes, with the columns of its step function written back. -/
theorem exec_tickPulse (s : State) : exec .tickPulse s = .next (s.putTick s.tickColumns.pulse) := rfl

theorem exec_tickPulse_of_counts (h : s.tick.Counts s.cfg) :
    exec .tickPulse s = .next { s with tick := { s.tick with cnt := s.tick.cnt + 1 } } := by
  rw [exec_tickPulse, pulse_of_counts h]
  rfl

theorem exec_tickPulse_of_not_counts (h : ¬ s.tick.Counts s.cfg) : exec .tickPulse s = .next s := by
  rw [exec_tickPulse, pulse_of_not_counts h, putTick_tickColumns]

/-- Settles O7: the two cases of R117's guard. -/
theorem tickPulseCountsAndSaturates : Obligations.TickPulseCountsAndSaturates := by
  intro s
  split
  case isTrue hcounts => exact exec_tickPulse_of_counts hcounts
  case isFalse hkept => exact exec_tickPulse_of_not_counts hkept

end Sys2Proof.Machine
end

section
/-! The IR Decoder (R127 to R136). Each statement about a phase is one case of `edgeState`; a row that names a case of
`IR.EDGE` answers what the operation answers wherever the row completes (`bothAnswer_irRow`). -/

namespace Sys2Proof.Machine

/-! ### The rows that name a case of IR.EDGE -/

section
variable {s t : State} {l : Level}

/-- A row answers what its step function answers where its selecting condition holds (log entry 3). -/
theorem runIr_selected {sel : IrColumns → Bool} {f : IrColumns → IrColumns} (hsel : sel s.irColumns = true) :
    s.runIr (fun c => whenSelected (sel c) (.next (f c))) = .next (s.putIr (f s.irColumns)) :=
  runIr_next.2 ⟨_, whenSelected_next.2 ⟨hsel, rfl⟩, rfl⟩

/-- Where a row of IR.EDGE completes, the row and the operation both lead to the state of the phase's rule. -/
theorem bothAnswer_irRow {i : Instr} (hi : irInput i = some l) (hl : l ≠ s.ir.level) (hrow : ∃ u, exec i s = .next u)
    (ht : edgeState s l = t) : BothAnswer (.irEdge l) i s t := by
  obtain ⟨u, hu⟩ := hrow
  have hedge : execIrEdge l s = .next t := ht ▸ execIrEdge_of_enabled hl
  have hut : u = t := next_inj.1 (hedge.symm.trans (ir_row hi hu))
  exact ⟨hedge, hut ▸ hu⟩

/-- The row of the opcode table that names a phase (R127). -/
def phaseRow (l : Level) : IrPhase → Instr
  | .idle => .irIdle l
  | .leadMark => .irLeadMark l
  | .leadSpace => .irLeadSpace l
  | .bitMark => .irBitMark l
  | .bitSpace => .irBitSpace l

theorem irInput_phaseRow (l : Level) (p : IrPhase) : irInput (phaseRow l p) = some l := by
  cases p <;> rfl

/-- A phase's row completes at every enabled edge in that phase. -/
theorem exec_phaseRow_completes {p : IrPhase} (hp : s.ir.phase = p) (hl : l ≠ s.ir.level) :
    ∃ u, exec (phaseRow l p) s = .next u := by
  have hsel : s.irColumns.selected p l = true := irSelected_iff.2 ⟨hl, hp⟩
  cases p
  case idle => unfold exec phaseRow execIrIdle; exact ⟨_, runIr_selected hsel⟩
  case leadMark => unfold exec phaseRow execIrLeadMark; exact ⟨_, runIr_selected hsel⟩
  case leadSpace => unfold exec phaseRow execIrLeadSpace; exact ⟨_, runIr_selected hsel⟩
  case bitMark => unfold exec phaseRow execIrBitMark; exact ⟨_, runIr_selected hsel⟩
  case bitSpace => unfold exec phaseRow execIrBitSpace; exact ⟨_, runIr_selected hsel⟩

theorem bothAnswer_phaseRow {p : IrPhase} (hp : s.ir.phase = p) (hl : l ≠ s.ir.level) (ht : edgeState s l = t) :
    BothAnswer (.irEdge l) (phaseRow l p) s t :=
  bothAnswer_irRow (irInput_phaseRow l p) hl (exec_phaseRow_completes hp hl) ht

/-- The finish row completes at the end of a good final mark (R132). -/
theorem exec_irFinish_completes (hp : s.ir.phase = .bitMark) (hl : .space ≠ s.ir.level)
    (hlast : s.ir.lastMark = true) (hwin : InWindow s.tick.cnt s.cfg.tBitMark) : ∃ u, exec (.irFinish .space) s = .next u := by
  have hsel : s.irColumns.selected .bitMark .space = true := irSelected_iff.2 ⟨hl, hp⟩
  have hin : inwin s.irColumns.cnt s.irColumns.cfg.tBitMark = true := inwin_true_iff.2 hwin
  have hmark : s.irColumns.ir.lastMark = true := hlast
  unfold exec execIrFinish
  exact ⟨_, runIr_selected (by rw [hsel, hin, hmark]; rfl)⟩

/-- The repeat row completes at the end of a leading space in the repeat window alone (R130). -/
theorem exec_irRepeatCode_completes (hp : s.ir.phase = .leadSpace) (hl : .mark ≠ s.ir.level)
    (hnew : ¬ InWindow s.tick.cnt s.cfg.tLeadSpace) (hrep : InWindow s.tick.cnt s.cfg.tRepeatSpace) :
    ∃ u, exec (.irRepeatCode .mark) s = .next u := by
  have hsel : s.irColumns.selected .leadSpace .mark = true := irSelected_iff.2 ⟨hl, hp⟩
  have hout : inwin s.irColumns.cnt s.irColumns.cfg.tLeadSpace = false := inwin_false_iff.2 hnew
  have hin : inwin s.irColumns.cnt s.irColumns.cfg.tRepeatSpace = true := inwin_true_iff.2 hrep
  unfold exec execIrRepeatCode
  exact ⟨_, runIr_selected (by rw [hsel, hout, hin]; rfl)⟩

/-- The abort row completes under the conditions of R135. -/
theorem exec_irAbort_completes (h : AbortsAttempt s l) : ∃ u, exec (.irAbort l) s = .next u := by
  have hl : l ≠ s.ir.level := h.1
  unfold exec execIrAbort
  exact ⟨_, runIr_selected (Bool.and_eq_true_iff.2 ⟨irEnabled_iff.2 hl, (aborts_iff hl).2 h⟩)⟩

/-! ### The state an edge leads to, by phase -/

theorem edgeState_idle_mark (hp : s.ir.phase = .idle) : edgeState s .mark = attemptStarted s .mark := by
  simp only [edgeState, hp, if_true]

/-- An edge to SPACE in `IR_IDLE` keeps the phase. -/
theorem edgeState_idle_space (hp : s.ir.phase = .idle) :
    edgeState s .space = { s with tick := { s.tick with cnt := 0 }, ir := { s.ir with level := .space } } := by
  have hrule : edgeState s .space = toPhase s .space .idle := by simp only [edgeState, hp, reduceCtorEq, if_false]
  rw [hrule, ← hp]

theorem edgeState_leadMark (hp : s.ir.phase = .leadMark) :
    edgeState s l =
      if l = .space ∧ InWindow s.tick.cnt s.cfg.tLeadMark then toPhase s l .leadSpace
      else attemptDropped s l .irTiming := by
  simp only [edgeState, hp]

theorem edgeState_leadSpace (hp : s.ir.phase = .leadSpace) :
    edgeState s l =
      if l = .mark ∧ InWindow s.tick.cnt s.cfg.tLeadSpace then toPhase s l .bitMark
      else if l = .mark ∧ InWindow s.tick.cnt s.cfg.tRepeatSpace then
        if s.ir.lastValid = true then frameResent s l else attemptDropped s l .irRepeatNoFrame
      else attemptDropped s l .irTiming := by
  simp only [edgeState, hp]

/-- R134's two outcomes, at the end of a space in the repeat window alone. -/
theorem edgeState_repeatCode (hp : s.ir.phase = .leadSpace) (hnew : ¬ InWindow s.tick.cnt s.cfg.tLeadSpace)
    (hrep : InWindow s.tick.cnt s.cfg.tRepeatSpace) :
    edgeState s .mark = if s.ir.lastValid = true then frameResent s .mark
      else attemptDropped s .mark .irRepeatNoFrame := by
  rw [edgeState_leadSpace hp, if_neg (fun h => hnew h.2), if_pos ⟨rfl, hrep⟩]

theorem edgeState_bitMark_continues (hp : s.ir.phase = .bitMark) (hwin : InWindow s.tick.cnt s.cfg.tBitMark)
    (hlast : s.ir.lastMark = false) : edgeState s .space = toPhase s .space .bitSpace := by
  simp only [edgeState, hp]
  rw [if_pos ⟨trivial, hwin⟩, if_neg (by simp [hlast])]

/-- R133's two outcomes, at the end of a good final mark. -/
theorem edgeState_finish (hp : s.ir.phase = .bitMark) (hwin : InWindow s.tick.cnt s.cfg.tBitMark)
    (hlast : s.ir.lastMark = true) :
    edgeState s .space = if complementsMatch s.ir.word = true then frameAccepted s .space
      else attemptDropped s .space .irComplement := by
  simp only [edgeState, hp]
  rw [if_pos ⟨trivial, hwin⟩, if_pos hlast]

theorem edgeState_bitSpace (hp : s.ir.phase = .bitSpace) :
    edgeState s l =
      if l = .mark ∧ (InWindow s.tick.cnt s.cfg.tZeroSpace ∨ InWindow s.tick.cnt s.cfg.tOneSpace) then
        bitTaken s l (!decide (InWindow s.tick.cnt s.cfg.tZeroSpace))
      else attemptDropped s l .irTiming := by
  simp only [edgeState, hp]
  by_cases hl : l = .mark
  · by_cases hzero : InWindow s.tick.cnt s.cfg.tZeroSpace
    · rw [if_pos ⟨hl, hzero⟩, if_pos ⟨hl, .inl hzero⟩, decide_eq_true hzero]; rfl
    · by_cases hone : InWindow s.tick.cnt s.cfg.tOneSpace
      · rw [if_neg (fun h => hzero h.2), if_pos ⟨hl, hone⟩, if_pos ⟨hl, .inr hone⟩, decide_eq_false hzero]; rfl
      · rw [if_neg (fun h => hzero h.2), if_neg (fun h => hone h.2), if_neg (fun h => h.2.elim hzero hone)]
  · rw [if_neg (fun h => hl h.1), if_neg (fun h => hl h.1), if_neg (fun h => hl h.1)]

end

/-! ### The IR word as numbers (R65, R131) -/

/-- Shifting a bit in doubles the word and adds the bit. -/
theorem shiftInBit_eq_ofNat (w : Word) (v : Bool) : shiftInBit w v = BitVec.ofNat 32 (2 * w.toNat + v.toNat) := by
  have hdisjoint : w <<< 1 &&& (if v then 1 else 0) = 0#32 := by
    ext i
    cases v <;> cases i <;> simp
  rw [shiftInBit, ← BitVec.add_eq_or_of_and_eq_zero _ _ hdisjoint, BitVec.toNat_eq, BitVec.toNat_add,
    BitVec.toNat_shiftLeft, Nat.shiftLeft_eq, BitVec.toNat_ofNat]
  cases v <;> simp <;> omega

theorem wordByte_toNat (w : Word) (k : Nat) : (wordByte w k).toNat = w.toNat / 2 ^ (24 - 8 * k) % 256 := by
  rw [wordByte, BitVec.extractLsb'_toNat, Nat.shiftRight_eq_div_pow]

/-- The bytes of a word are the digits of its number to base 256. -/
theorem wordByte_of_digits {w : Word} {a na c nc : Byte}
    (hw : w.toNat = ((a.toNat * 256 + na.toNat) * 256 + c.toNat) * 256 + nc.toNat) :
    wordByte w 0 = a ∧ wordByte w 1 = na ∧ wordByte w 2 = c ∧ wordByte w 3 = nc := by
  have ha := a.isLt
  have hna := na.isLt
  have hc := c.isLt
  have hnc := nc.isLt
  refine ⟨?_, ?_, ?_, ?_⟩ <;> apply BitVec.eq_of_toNat_eq <;> rw [wordByte_toNat, hw] <;> omega

/-- The complement of a byte is `0xFF` less the byte. -/
theorem not_eq_ff_sub (b : Byte) : ~~~ b = 0xFF - b := (BitVec.allOnes_sub_eq_not b).symm

/-- The validity rule of R133, on the bytes of the word. -/
theorem complementsMatch_iff {w : Word} :
    complementsMatch w = true ↔ wordByte w 1 = 0xFF - wordByte w 0 ∧ wordByte w 3 = 0xFF - wordByte w 2 := by
  rw [complementsMatch, Bool.and_eq_true, beq_iff_eq, beq_iff_eq, not_eq_ff_sub, not_eq_ff_sub]

/-- A bit shifted in, in R131's numbers. -/
theorem bitTaken_eq (s : State) (l : Level) (v : Bool) :
    bitTaken s l v =
      { s with tick := { s.tick with cnt := 0 },
               ir := { s.ir with level := l, phase := .bitMark,
                                 word := BitVec.ofNat 32 (2 * s.ir.word.toNat + v.toNat), bitIdx := s.ir.bitIdx + 1,
                                 lastMark := s.ir.lastMark || decide (s.ir.bitIdx.toNat + 1 = 32) } } := by
  have hlast : (if s.ir.bitIdx.toNat + 1 = 32 then true else s.ir.lastMark) =
      (s.ir.lastMark || decide (s.ir.bitIdx.toNat + 1 = 32)) := by
    by_cases hlast : s.ir.bitIdx.toNat + 1 = 32 <;> simp [hlast]
  rw [bitTaken, shiftInBit_eq_ofNat, hlast]

/-! ### The statements -/

/-- Settles O27. -/
theorem idleEdgeStartsAttempt : Obligations.IdleEdgeStartsAttempt := fun _ hp =>
  ⟨fun hl => bothAnswer_phaseRow hp (by simp [hl]) (edgeState_idle_mark hp),
    fun hl => bothAnswer_phaseRow hp (by simp [hl]) (edgeState_idle_space hp)⟩

/-- Settles O28. -/
theorem leadingMarkIsTimed : Obligations.LeadingMarkIsTimed := fun _ _ hp hl =>
  bothAnswer_phaseRow hp hl (edgeState_leadMark hp)

/-- Settles O29. -/
theorem leadingSpaceIsClassified : Obligations.LeadingSpaceIsClassified := fun _ _ hp hl =>
  bothAnswer_phaseRow hp hl (edgeState_leadSpace hp)

/-- Settles O30: a bad mark is an abort of R135; of a good one the two cases are by `ir_last_mark`. -/
theorem bitMarkIsTimed : Obligations.BitMarkIsTimed := by
  intro s l hp hl
  refine ⟨fun hbad => ?_, ?_, ?_⟩
  · have haborts : AbortsAttempt s l := ⟨hl, .inr (.inr (.inl ⟨hp, hbad⟩))⟩
    exact bothAnswer_phaseRow hp hl (edgeState_of_aborts haborts)
  · rintro rfl hwin hlast
    exact bothAnswer_phaseRow hp hl (edgeState_bitMark_continues hp hwin hlast)
  · rintro rfl hwin hlast
    have hfinish := bothAnswer_irRow rfl hl (exec_irFinish_completes hp hl hlast hwin) rfl
    exact ⟨_, bothAnswer_phaseRow hp hl rfl, hfinish.2⟩

/-- Settles O31: the bit is 0 exactly in the window of a zero, which is tested first. -/
theorem bitSpaceShiftsBitIn : Obligations.BitSpaceShiftsBitIn := by
  intro s l v hp hl hv
  have hbit : (!decide (InWindow s.tick.cnt s.cfg.tZeroSpace)).toNat = v := by
    by_cases hzero : InWindow s.tick.cnt s.cfg.tZeroSpace
    · rw [hv, if_pos hzero, decide_eq_true hzero]; rfl
    · rw [hv, if_neg hzero, decide_eq_false hzero]; rfl
  exact bothAnswer_phaseRow hp hl (by rw [edgeState_bitSpace hp, bitTaken_eq, hbit])

/-- Settles O32: the finish of R133 with the word read as its four bytes. -/
theorem finishJudgesComplements : Obligations.FinishJudgesComplements := by
  intro s a na c nc hp hl hlast hwin hw
  obtain ⟨ha, hna, hc, hnc⟩ := wordByte_of_digits hw
  have hne : Level.space ≠ s.ir.level := by simp [hl]
  have hmatch : complementsMatch s.ir.word = true ↔ na = 0xFF - a ∧ nc = 0xFF - c := by
    rw [complementsMatch_iff, ha, hna, hc, hnc]
  have hrow := bothAnswer_irRow rfl hne (exec_irFinish_completes hp hne hlast hwin) rfl
  have hphase := bothAnswer_phaseRow hp hne rfl
  refine ⟨_, hrow, hphase.2, ?_⟩
  rw [edgeState_finish hp hwin hlast, if_congr hmatch rfl rfl, frameAccepted, irAddrOf, irCmdOf, ha, hc]

/-- Settles O33. -/
theorem repeatCodeResendsLastFrame : Obligations.RepeatCodeResendsLastFrame := by
  intro s hp hl hnew hrep
  have hne : Level.mark ≠ s.ir.level := by simp [hl]
  exact bothAnswer_irRow rfl hne (exec_irRepeatCode_completes hp hne hnew hrep) (edgeState_repeatCode hp hnew hrep)

/-- Settles O34. -/
theorem outOfWindowAborts : Obligations.OutOfWindowAborts := fun _ _ h =>
  bothAnswer_irRow rfl h.1 (exec_irAbort_completes h) (edgeState_of_aborts h)

/-- Settles O35: raising the event writes the button column alone. -/
theorem raiseEventFillsMailbox : Obligations.RaiseEventFillsMailbox := by
  intro s a c
  unfold exec execIrRaiseEvent
  exact runIr_next.2 ⟨s.irColumns.raiseButton a c, rfl, rfl⟩

end Sys2Proof.Machine
end

section
/-! The Command Dispatcher where no request is answered (R159, R161): the poll that sends an IR event, and the poll that
consumes a packet with an unknown code. -/

namespace Sys2Proof.Machine

variable {s : State}

/-! ### The rows that name a case of DISP.POLL -/

/-- A row answers what its step function answers where its selecting condition holds (log entry 3). -/
theorem runDisp_selected {sel : DispColumns → Bool} {f : DispColumns → Answer DispColumns} {c : DispColumns}
    (hsel : sel s.dispColumns = true) (hf : f s.dispColumns = .next c) :
    s.runDisp (fun c => whenSelected (sel c) (f c)) = .next (s.putDisp c) :=
  runDisp_next.2 ⟨c, whenSelected_next.2 ⟨hsel, hf⟩, rfl⟩

/-! ### An IR event is sent (R159) -/

/-- A poll that finds an IR event and no packet sends the event, whatever its draw. -/
theorem execDispPoll_button (r : List Byte) (hidle : s.tx.state = .idle) (hnone : s.pkt.pending = false)
    (hevent : s.irBox.pending = true) : execDispPoll r s = .next (buttonSent s) := by
  rw [execDispPoll_eq, if_pos hidle, if_neg (Bool.eq_false_iff.1 hnone), if_pos hevent]

/-- The event's row is selected under the same three conditions. -/
theorem exec_remoteButton (hidle : s.tx.state = .idle) (hnone : s.pkt.pending = false)
    (hevent : s.irBox.pending = true) : exec .remoteButton s = .next (buttonSent s) := by
  have hsel : (s.dispColumns.txState == .idle && !s.dispColumns.pkt.pending && s.dispColumns.irBox.pending) = true := by
    simp [hidle, hnone, hevent]
  unfold exec execRemoteButton
  exact runDisp_selected (sel := fun c => c.txState == .idle && !c.pkt.pending && c.irBox.pending)
    (f := fun c => .next c.remoteButton) hsel rfl

/-- RESPBUF after the event was stored: its two bytes first, every other byte as before. -/
theorem buttonSent_respBuf_read (s : State) (i : Nat) :
    (buttonSent s).respBuf.read i = if i < 2 then [s.irBox.addr, s.irBox.cmd][i]? else s.respBuf.read i := by
  have hbounds : (0 ≤ i ∧ i < 0 + [s.irBox.addr, s.irBox.cmd].length) ↔ i < 2 := by simp
  rw [Memory.read_writeAll, if_congr hbounds rfl rfl, Nat.sub_zero]

/-! ### An unknown command is dropped (R161) -/

/-- The six request codes are the ones R161 excludes (R66). -/
theorem requestCode_mem (q : Request) : q.code ∈ [(0x00 : Byte), 0xDE, 0xA9, 0xBA, 0x9A, 0x9B] := by
  cases q <;> decide

/-- A byte outside the six codes decodes to no request. -/
theorem decodeRequest_eq_none {c : Byte} (hc : c ∉ [(0x00 : Byte), 0xDE, 0xA9, 0xBA, 0x9A, 0x9B]) :
    decodeRequest c = none :=
  Option.eq_none_iff_forall_ne_some.2 fun q hq => hc (decodeRequest_some hq ▸ requestCode_mem q)

/-- Where no request is selected, a poll drops the packet, whatever its draw. -/
theorem execDispPoll_unknown (r : List Byte) (hsel : s.dispColumns.packetSelected none = true) :
    execDispPoll r s = .next (unknownDropped s) :=
  runDisp_next.2 ⟨_, poll_of_selected r hsel, rfl⟩

/-- The unknown command's row, with the code of the packet, drops it too. -/
theorem exec_unknownCommand (hsel : s.dispColumns.packetSelected none = true) :
    exec (.unknownCommand s.pkt.cmd) s = .next (unknownDropped s) := by
  have hrow : (s.dispColumns.packetSelected none && s.dispColumns.pkt.cmd == s.pkt.cmd) = true :=
    Bool.and_eq_true_iff.2 ⟨hsel, beq_self_eq_true _⟩
  unfold exec execUnknownCommand
  exact runDisp_selected (sel := fun c => c.packetSelected none && c.pkt.cmd == s.pkt.cmd)
    (f := fun c => .next c.unknownCommand) hrow rfl

/-! ### The statements -/

/-- Settles O45. -/
theorem remoteButtonIsSent : Obligations.RemoteButtonIsSent := by
  intro s r hidle hnone hevent
  refine ⟨buttonSent s, ⟨execDispPoll_button r hidle hnone hevent, exec_remoteButton hidle hnone hevent⟩, rfl, ?_, ?_, ?_⟩
  · rw [buttonSent_respBuf_read]; rfl
  · rw [buttonSent_respBuf_read]; rfl
  · intro i hi
    rw [buttonSent_respBuf_read, if_neg (Nat.not_lt.2 hi)]

/-- Settles O46: a code outside the six selects no request's rule. -/
theorem unknownCommandIsDropped : Obligations.UnknownCommandIsDropped := by
  rintro s r c ⟨hidle, hpending, rfl⟩ hc
  have hsel : s.dispColumns.packetSelected none = true :=
    packetSelected_iff.2 ⟨hidle, hpending, decodeRequest_eq_none hc⟩
  exact ⟨execDispPoll_unknown r hsel, exec_unknownCommand hsel⟩

end Sys2Proof.Machine
end

section
/-! Reset (R210, R220). `RESET` has one case, always taken: the register writes of `State.resetRegs`, whose columns are
given by the lemmas of Laws/State. -/

namespace Sys2Proof.Machine

/-- `RESET` is always enabled and performs the register writes of R210. -/
theorem exec_reset (s : State) : exec .reset s = .next s.resetRegs := rfl

/-- The two arrays are not among the writes of R210. -/
theorem sameBuffers_resetRegs (s : State) : SameBuffers s s.resetRegs :=
  ⟨fun _ => by rw [State.resetRegs_rxBuf], fun _ => by rw [State.resetRegs_respBuf]⟩

open State in
/-- Settles O6: one column after the other, in the order of the statement. -/
theorem resetWritesEveryRegister : Obligations.ResetWritesEveryRegister := fun s =>
  ⟨s.resetRegs, exec_reset s, resetRegs_rx s, resetRegs_pkt s, resetRegs_tx s, resetRegs_respLen s, resetRegs_tick s,
    resetRegs_ir s, resetRegs_irBox s, resetRegs_faultSeen s, resetRegs_cfg s, sameBuffers_resetRegs s⟩

end Sys2Proof.Machine
end

section
/-! The decoder and the encoder of the event stream (log entries 1 and 2). Each operand form is read back as it was
written, and what is read is a suffix of the bytes. -/

namespace Sys2Proof

/-! ### An operand is read back as it was written -/

theorem splitBytes_append (p rest : List Byte) : splitBytes p.length (p ++ rest) = some (p, rest) := by
  induction p with
  | nil => rfl
  | cons b p ih => simp only [List.length_cons, List.cons_append, splitBytes, ih]

theorem operandBytes_countedBytes (f : List Byte → Instr) {r : List Byte} (rest : List Byte) (hr : r.length ≤ 255) :
    operandBytes f (countedBytes r ++ rest) = .ok (f r, rest) := by
  have hcount : (BitVec.ofNat 8 r.length).toNat = r.length := by
    rw [BitVec.toNat_ofNat]; exact Nat.mod_eq_of_lt (by omega)
  simp only [countedBytes, List.cons_append, operandBytes, hcount, splitBytes_append]

theorem operandLevel_toByte (f : Level → Instr) (l : Level) (rest : List Byte) :
    operandLevel f (l.toByte :: rest) = .ok (f l, rest) := by
  cases l <;> rfl

/-- A digit of less than 128 ends a number. -/
theorem splitNat_last {n : Nat} (hn : n < 128) (rest : List Byte) :
    splitNat (BitVec.ofNat 8 n :: rest) = some (n, rest) := by
  have hdigit : (BitVec.ofNat 8 n).toNat = n := by
    rw [BitVec.toNat_ofNat]; exact Nat.mod_eq_of_lt (by omega)
  simp only [splitNat, hdigit, if_pos hn]

/-- As many digits as the value of a number are enough for it. -/
theorem splitNat_natDigits {k n : Nat} (rest : List Byte) (hn : n ≤ k) :
    splitNat (natDigits k n ++ rest) = some (n, rest) := by
  induction k generalizing n with
  | zero => exact splitNat_last (by omega) rest
  | succ k ih =>
    rw [natDigits]
    split
    · exact splitNat_last ‹_› rest
    · have hdigit : (BitVec.ofNat 8 (n % 128 + 128)).toNat = n % 128 + 128 := by
        rw [BitVec.toNat_ofNat]; exact Nat.mod_eq_of_lt (by omega)
      have hrest := ih (n := n / 128) (by omega)
      simp only [List.cons_append, splitNat, hdigit, hrest, if_neg (show ¬ n % 128 + 128 < 128 by omega)]
      congr 2
      omega

theorem halfOf_bytes (h : Half) : halfOf (halfLo h) (halfHi h) = h :=
  BitVec.extractLsb'_append_extractLsb'_eq_extractLsb' (by omega) |>.trans BitVec.extractLsb'_eq_self

theorem wordOf_bytes (w : Word) : wordOf (wordByte w 0) (wordByte w 1) (wordByte w 2) (wordByte w 3) = w := by
  have hhigh : (wordByte w 0 ++ wordByte w 1 : Half) = w.extractLsb' 16 16 :=
    BitVec.extractLsb'_append_extractLsb'_eq_extractLsb' (by omega)
  have hlow : (wordByte w 2 ++ wordByte w 3 : Half) = w.extractLsb' 0 16 :=
    BitVec.extractLsb'_append_extractLsb'_eq_extractLsb' (by omega)
  rw [wordOf, hhigh, hlow]
  exact (BitVec.extractLsb'_append_extractLsb'_eq_extractLsb' (by omega)).trans BitVec.extractLsb'_eq_self

/-! ### The decoder inverts the encoder -/

/-- The codes of `isRequestCode` are those of `decodeRequest` (R66). -/
theorem decodeRequest_eq_none_iff (c : Byte) : decodeRequest c = none ↔ isRequestCode c = false := by
  unfold decodeRequest isRequestCode
  repeat' split
  all_goals simp_all

/-- A code that is no request, `0xDA` among them, is read back as an unknown command. -/
theorem decode_unknownCommand {c : Byte} (rest : List Byte) (hc : isRequestCode c = false) :
    decode (encode (.unknownCommand c) ++ rest) = .ok (.unknownCommand c, rest) := by
  have hnone := (decodeRequest_eq_none_iff c).2 hc
  by_cases hda : c = remoteButtonCode
  · subst hda; rfl
  · have hrow : decode (c :: 1 :: rest) = decodeCommand c rest := rfl
    rw [encode, if_neg hda, List.cons_append, List.cons_append, List.nil_append, hrow, decodeCommand, hnone, if_neg hda]

theorem decode_txStart (c : Byte) {n : Half} (rest : List Byte) (hn : n.toNat ≤ 65534) :
    decode (encode (.txStart c n) ++ rest) = .ok (.txStart c n, rest) := by
  have hrow : decode (encode (.txStart c n) ++ rest) =
      if (halfOf (halfLo n) (halfHi n)).toNat ≤ Config.txMaxPayload then
        .ok (.txStart c (halfOf (halfLo n) (halfHi n)), rest)
      else .error .payloadTooLong := rfl
  rw [hrow, halfOf_bytes, if_pos hn]

theorem decode_wireFrame (c : Byte) {p : List Byte} (rest : List Byte) (hp : p.length ≤ 65534) :
    decode (encode (.wireFrame c p) ++ rest) = .ok (.wireFrame c p, rest) := by
  have hlen : (BitVec.ofNat 16 p.length).toNat = p.length := by
    rw [BitVec.toNat_ofNat]; exact Nat.mod_eq_of_lt (by omega)
  have hrow : decode (encode (.wireFrame c p) ++ rest) = decodeFormat 0
      (c :: halfLo (BitVec.ofNat 16 p.length) :: halfHi (BitVec.ofNat 16 p.length) :: (p ++ rest)) := rfl
  simp only [hrow, decodeFormat, if_true, halfOf_bytes, hlen, if_pos hp, splitBytes_append]

/-- Settles O1: the operand forms are read back as written; the rows without operands compute. -/
theorem decodeInvertsEncode : Obligations.DecodeInvertsEncode := by
  intro i rest hwf
  cases i
  case unknownCommand c => exact decode_unknownCommand rest (by simpa [Instr.wf] using hwf)
  case busRead r => exact operandBytes_countedBytes .busRead rest (of_decide_eq_true hwf)
  case dispPoll r => exact operandBytes_countedBytes .dispPoll rest (of_decide_eq_true hwf)
  case txStart c n => exact decode_txStart c rest (of_decide_eq_true hwf)
  case rxSyncOverride b => obtain rfl : b = 0x58 := beq_iff_eq.1 hwf; rfl
  case irEdge l => exact operandLevel_toByte .irEdge l rest
  case irIdle l => exact operandLevel_toByte .irIdle l rest
  case irLeadMark l => exact operandLevel_toByte .irLeadMark l rest
  case irLeadSpace l => exact operandLevel_toByte .irLeadSpace l rest
  case irBitMark l => exact operandLevel_toByte .irBitMark l rest
  case irBitSpace l => exact operandLevel_toByte .irBitSpace l rest
  case irFinish l => exact operandLevel_toByte .irFinish l rest
  case irRepeatCode l => exact operandLevel_toByte .irRepeatCode l rest
  case irAbort l => exact operandLevel_toByte .irAbort l rest
  case wireFrame c p => exact decode_wireFrame c rest (of_decide_eq_true hwf)
  case irFrame w =>
    have hword := wordOf_bytes w
    exact congrArg (fun v => (.ok (.irFrame v, rest) : Decoded)) hword
  case irRepeat d =>
    have hdigits : splitNat (natBytes d ++ rest) = some (d, rest) := splitNat_natDigits rest (le_refl d)
    have hrow : decode (encode (.irRepeat d) ++ rest) = operandNat .irRepeat (natBytes d ++ rest) := rfl
    rw [hrow, operandNat, hdigits]
  all_goals rfl

/-! ### What the decoder reads is well-formed and a suffix of the bytes -/

/-- What is read, if anything is, is well-formed, and a suffix of `bs` is left. -/
def ReadsFrom (bs : List Byte) (d : Decoded) : Prop :=
  ∀ i rest, d = .ok (i, rest) → i.wf = true ∧ rest <:+ bs

theorem readsFrom_ok {bs rest : List Byte} {i : Instr} (hi : i.wf = true) (hs : rest <:+ bs) :
    ReadsFrom bs (.ok (i, rest)) := by
  rintro j r h
  obtain ⟨rfl, rfl⟩ := Prod.mk.inj (Except.ok.inj h)
  exact ⟨hi, hs⟩

theorem readsFrom_error {bs : List Byte} {e : DecodeError} : ReadsFrom bs (.error e) := fun _ _ h => nomatch h

theorem readsFrom_ite {bs : List Byte} {c : Prop} [Decidable c] {d e : Decoded} (hd : c → ReadsFrom bs d)
    (he : ¬ c → ReadsFrom bs e) : ReadsFrom bs (if c then d else e) := by
  by_cases h : c
  · rw [if_pos h]; exact hd h
  · rw [if_neg h]; exact he h

theorem splitBytes_some {n : Nat} {bs xs rest : List Byte} (h : splitBytes n bs = some (xs, rest)) :
    xs.length = n ∧ bs = xs ++ rest := by
  induction n generalizing bs xs with
  | zero =>
    obtain ⟨rfl, rfl⟩ := Prod.mk.inj (Option.some.inj h)
    exact ⟨rfl, rfl⟩
  | succ n ih =>
    cases bs with
    | nil => cases h
    | cons b bs =>
      simp only [splitBytes] at h
      split at h
      · cases h
      · rename_i ys r hsplit
        obtain ⟨rfl, rfl⟩ := Prod.mk.inj (Option.some.inj h)
        obtain ⟨hlen, happ⟩ := ih hsplit
        exact ⟨congrArg (· + 1) hlen, congrArg (b :: ·) happ⟩

theorem splitNat_suffix {bs rest : List Byte} {n : Nat} (h : splitNat bs = some (n, rest)) : rest <:+ bs := by
  induction bs generalizing n with
  | nil => cases h
  | cons b bs ih =>
    simp only [splitNat] at h
    split at h
    · obtain ⟨-, rfl⟩ := Prod.mk.inj (Option.some.inj h)
      exact List.suffix_cons b bs
    · split at h
      · cases h
      · rename_i m r hsplit
        obtain ⟨-, rfl⟩ := Prod.mk.inj (Option.some.inj h)
        exact (ih hsplit).trans (List.suffix_cons b bs)

theorem operandByte_reads {f : Byte → Instr} (hf : ∀ b, (f b).wf = true) (bs : List Byte) :
    ReadsFrom bs (operandByte f bs) := by
  cases bs with
  | nil => exact readsFrom_error
  | cons b bs => exact readsFrom_ok (hf b) (List.suffix_cons b bs)

theorem operandLevel_reads {f : Level → Instr} (hf : ∀ l, (f l).wf = true) (bs : List Byte) :
    ReadsFrom bs (operandLevel f bs) := by
  cases bs with
  | nil => exact readsFrom_error
  | cons b bs =>
    have hs := List.suffix_cons b bs
    exact readsFrom_ite (fun _ => readsFrom_ok (hf _) hs) fun _ =>
      readsFrom_ite (fun _ => readsFrom_ok (hf _) hs) fun _ => readsFrom_error

/-- A count of one byte announces at most 255 bytes. -/
theorem operandBytes_reads {f : List Byte → Instr} (hf : ∀ r : List Byte, r.length ≤ 255 → (f r).wf = true)
    (bs : List Byte) : ReadsFrom bs (operandBytes f bs) := by
  cases bs with
  | nil => exact readsFrom_error
  | cons k bs =>
    rw [operandBytes]
    split
    · rename_i xs rest hsplit
      obtain ⟨hlen, rfl⟩ := splitBytes_some hsplit
      exact readsFrom_ok (hf xs (by have := k.isLt; omega)) ⟨k :: xs, rfl⟩
    · exact readsFrom_error

theorem operandNat_reads {f : Nat → Instr} (hf : ∀ n, (f n).wf = true) (bs : List Byte) :
    ReadsFrom bs (operandNat f bs) := by
  unfold operandNat
  split
  · exact readsFrom_ok (hf _) (splitNat_suffix ‹_›)
  · exact readsFrom_error

theorem decodeCommand_reads (code : Byte) (bs : List Byte) : ReadsFrom bs (decodeCommand code bs) := by
  unfold decodeCommand
  split
  case h_6 => exact operandBytes_reads (f := .busRead) (fun _ hr => decide_eq_true hr) bs
  case h_7 hnone =>
    have hwf : (Instr.unknownCommand code).wf = true := by
      simp only [Instr.wf, (decodeRequest_eq_none_iff code).1 hnone, Bool.not_false]
    exact readsFrom_ite (fun _ => readsFrom_ok rfl List.suffix_rfl) fun _ => readsFrom_ok hwf List.suffix_rfl
  all_goals exact readsFrom_ok rfl List.suffix_rfl

theorem decodeUnnamed_reads (code : Byte) (bs : List Byte) : ReadsFrom bs (decodeUnnamed code bs) :=
  readsFrom_ite (fun _ => readsFrom_ok rfl List.suffix_rfl) fun _ =>
  readsFrom_ite (fun _ => decodeCommand_reads code bs) fun _ =>
  readsFrom_ite (fun _ => readsFrom_ok rfl List.suffix_rfl) fun _ => readsFrom_error

theorem decodeEvent_reads (code : Byte) (bs : List Byte) : ReadsFrom bs (decodeEvent code bs) :=
  readsFrom_ite (fun _ => readsFrom_ok rfl List.suffix_rfl) fun _ =>
  readsFrom_ite (fun _ => operandByte_reads (fun _ => rfl) bs) fun _ =>
  readsFrom_ite (fun _ => readsFrom_ok rfl List.suffix_rfl) fun _ =>
  readsFrom_ite (fun _ => readsFrom_ok rfl List.suffix_rfl) fun _ =>
  readsFrom_ite (fun _ => operandLevel_reads (fun _ => rfl) bs) fun _ =>
  readsFrom_ite (fun _ => operandBytes_reads (f := .dispPoll) (fun _ hr => decide_eq_true hr) bs) fun _ => decodeUnnamed_reads code bs

theorem decodeRxCase_reads (code : Byte) (bs : List Byte) : ReadsFrom bs (decodeRxCase code bs) :=
  readsFrom_ite (fun _ => operandByte_reads (fun _ => rfl) bs) fun _ =>
  readsFrom_ite (fun _ => operandByte_reads (fun _ => rfl) bs) fun _ =>
  readsFrom_ite (fun _ => operandByte_reads (fun _ => rfl) bs) fun _ =>
  readsFrom_ite (fun _ => operandByte_reads (fun _ => rfl) bs) fun _ =>
  readsFrom_ite (fun _ => operandByte_reads (fun _ => rfl) bs) fun _ => readsFrom_error

theorem decodeTxCase_reads (code : Byte) (bs : List Byte) : ReadsFrom bs (decodeTxCase code bs) :=
  readsFrom_ite (fun _ => readsFrom_ok rfl List.suffix_rfl) fun _ =>
  readsFrom_ite (fun _ => readsFrom_ok rfl List.suffix_rfl) fun _ =>
  readsFrom_ite (fun _ => readsFrom_ok rfl List.suffix_rfl) fun _ =>
  readsFrom_ite (fun _ => readsFrom_ok rfl List.suffix_rfl) fun _ =>
  readsFrom_ite (fun _ => readsFrom_ok rfl List.suffix_rfl) fun _ =>
  readsFrom_ite (fun _ => readsFrom_ok rfl List.suffix_rfl) fun _ => readsFrom_error

theorem decodeIrCase_reads (code : Byte) (bs : List Byte) : ReadsFrom bs (decodeIrCase code bs) :=
  readsFrom_ite (fun _ => operandLevel_reads (fun _ => rfl) bs) fun _ =>
  readsFrom_ite (fun _ => operandLevel_reads (fun _ => rfl) bs) fun _ =>
  readsFrom_ite (fun _ => operandLevel_reads (fun _ => rfl) bs) fun _ =>
  readsFrom_ite (fun _ => operandLevel_reads (fun _ => rfl) bs) fun _ =>
  readsFrom_ite (fun _ => operandLevel_reads (fun _ => rfl) bs) fun _ => readsFrom_error

/-- The count of TX.START is checked where it is read (R101). -/
theorem decodeInternal_reads (code : Byte) (bs : List Byte) : ReadsFrom bs (decodeInternal code bs) := by
  refine readsFrom_ite (fun _ => ?_) fun _ => readsFrom_error
  split
  · rename_i c lo hi rest
    exact readsFrom_ite (fun hn => readsFrom_ok (decide_eq_true hn) ⟨[c, lo, hi], rfl⟩) fun _ => readsFrom_error
  · exact readsFrom_error

theorem decodeRuleRow_reads (code : Byte) (bs : List Byte) : ReadsFrom bs (decodeRuleRow code bs) := by
  refine readsFrom_ite (fun _ => ?_) fun _ => readsFrom_ite (fun _ => operandByte_reads (fun _ => rfl) bs) fun _ =>
    readsFrom_ite (fun _ => operandByte_reads (fun _ => rfl) bs) fun _ =>
    readsFrom_ite (fun _ => operandLevel_reads (fun _ => rfl) bs) fun _ =>
    readsFrom_ite (fun _ => operandLevel_reads (fun _ => rfl) bs) fun _ =>
    readsFrom_ite (fun _ => operandLevel_reads (fun _ => rfl) bs) fun _ => readsFrom_ite (fun _ => ?_) fun _ =>
    readsFrom_ite (fun hda => ?_) fun _ => readsFrom_error
  · split
    · rename_i b rest
      exact readsFrom_ite (fun hb => readsFrom_ok (beq_iff_eq.2 hb) (List.suffix_cons b rest)) fun _ => readsFrom_error
    · exact readsFrom_error
  · split
    · rename_i a c rest
      exact readsFrom_ok rfl ⟨[a, c], rfl⟩
    · exact readsFrom_error
  · exact readsFrom_ok (by subst hda; rfl) List.suffix_rfl

/-- The length of a frame is checked where it is read, and its payload is as long (R73). -/
theorem decodeFormat_reads (code : Byte) (bs : List Byte) : ReadsFrom bs (decodeFormat code bs) := by
  refine readsFrom_ite (fun _ => ?_) fun _ => readsFrom_ite (fun _ => ?_) fun _ =>
    readsFrom_ite (fun _ => operandNat_reads (fun _ => rfl) bs) fun _ => readsFrom_error
  · split
    · rename_i c lo hi rest
      refine readsFrom_ite (fun hn => ?_) fun _ => readsFrom_error
      split
      · rename_i p rest' hsplit
        obtain ⟨hlen, rfl⟩ := splitBytes_some hsplit
        exact readsFrom_ok (decide_eq_true (by rw [hlen]; exact hn)) ⟨c :: lo :: hi :: p, rfl⟩
      · exact readsFrom_error
    · exact readsFrom_error
  · split
    · rename_i a na c nc rest
      exact readsFrom_ok rfl ⟨[a, na, c, nc], rfl⟩
    · exact readsFrom_error

/-- The selector names the format in which the rest is read. -/
theorem decode_reads (code sel : Byte) (bs : List Byte) : ReadsFrom bs (decode (code :: sel :: bs)) :=
  readsFrom_ite (fun _ => decodeEvent_reads code bs) fun _ =>
  readsFrom_ite (fun _ => decodeCommand_reads code bs) fun _ =>
  readsFrom_ite (fun _ => decodeRxCase_reads code bs) fun _ =>
  readsFrom_ite (fun _ => decodeTxCase_reads code bs) fun _ =>
  readsFrom_ite (fun _ => decodeIrCase_reads code bs) fun _ =>
  readsFrom_ite (fun _ => decodeInternal_reads code bs) fun _ =>
  readsFrom_ite (fun _ => decodeRuleRow_reads code bs) fun _ =>
  readsFrom_ite (fun _ => decodeFormat_reads code bs) fun _ => readsFrom_error

/-- Settles O2: the match byte and the selector are consumed, and the operands behind them. -/
theorem decodeGivesWellFormed : Obligations.DecodeGivesWellFormed := by
  intro bs i rest h
  match bs with
  | code :: sel :: bs =>
    obtain ⟨hwf, operands, rfl⟩ := decode_reads code sel bs i rest h
    exact ⟨hwf, code :: sel :: operands, rfl, by simp⟩

/-- Settles O3: each word computes. -/
theorem specWordsDecode : Obligations.SpecWordsDecode := by
  refine ⟨?_, ?_, ?_, ?_, ?_, ?_, ?_, ?_, ?_, ?_, ?_⟩ <;> rfl

end Sys2Proof
end

section
/-! Stepping through the event stream (R6, R72; log entry 1). An event neither reads nor writes the events still to
come, so a run over the encoded script is the execution of the script. -/

namespace Sys2Proof.Machine

/-! ### One step -/

theorem step_of_decode {s : State} {i : Instr} {rest : List Byte} (h : decode s.events = .ok (i, rest)) :
    step s = exec i { s with events := rest } := by
  rw [step, fetch_ok.2 ⟨rest, h, rfl⟩]

theorem step_of_no_events {s : State} (h : s.events = []) : step s = .next s := by
  rw [step, fetch_none.2 h]

theorem fetch_error {s : State} {e : DecodeError} (hne : s.events ≠ []) (h : decode s.events = .error e) :
    s.fetch = some (.error e) := by
  unfold State.fetch
  cases hev : s.events with
  | nil => exact absurd hev hne
  | cons b bs => rw [hev] at h; simp only [h]

/-- What a step can do, once and for all: nothing to perform, or one decoded instruction. -/
theorem step_cases (s : State) :
    s.events = [] ∧ step s = .next s ∨ (∃ e, step s = .refused (.illFormedScript e)) ∨
      ∃ i rest, decode s.events = .ok (i, rest) ∧ step s = exec i { s with events := rest } := by
  by_cases hev : s.events = []
  · exact .inl ⟨hev, step_of_no_events hev⟩
  · cases hd : decode s.events with
    | error e => exact .inr (.inl ⟨e, by rw [step, fetch_error hev hd]⟩)
    | ok p => exact .inr (.inr ⟨p.1, p.2, rfl, step_of_decode hd⟩)

/-! ### The events to come do not matter to an event -/

/-- The answer with another event stream. -/
def withEvents (e : List Byte) (r : Result) : Result := andThen r fun t => .next { t with events := e }

theorem runRx_events (s : State) (e : List Byte) (f : RxColumns → Answer RxColumns) :
    State.runRx { s with events := e } f = withEvents e (s.runRx f) := by
  have hcols : State.rxColumns { s with events := e } = s.rxColumns := rfl
  rw [State.runRx, State.runRx, hcols]
  cases f s.rxColumns <;> rfl

theorem runTx_events (s : State) (e : List Byte) (f : TxColumns → Answer TxColumns) :
    State.runTx { s with events := e } f = withEvents e (s.runTx f) := by
  have hcols : State.txColumns { s with events := e } = s.txColumns := rfl
  rw [State.runTx, State.runTx, hcols]
  cases f s.txColumns <;> rfl

theorem runIr_events (s : State) (e : List Byte) (f : IrColumns → Answer IrColumns) :
    State.runIr { s with events := e } f = withEvents e (s.runIr f) := by
  have hcols : State.irColumns { s with events := e } = s.irColumns := rfl
  rw [State.runIr, State.runIr, hcols]
  cases f s.irColumns <;> rfl

theorem putDisp_withEvents (s : State) (e : List Byte) (c : DispColumns) :
    State.putDisp { s with events := e } c = { s.putDisp c with events := e } := by
  unfold State.putDisp State.respond
  cases c.response <;> rfl

theorem runDisp_events (s : State) (e : List Byte) (f : DispColumns → Answer DispColumns) :
    State.runDisp { s with events := e } f = withEvents e (s.runDisp f) := by
  have hcols : State.dispColumns { s with events := e } = s.dispColumns := rfl
  rw [State.runDisp, State.runDisp, hcols]
  cases f s.dispColumns with
  | next c => exact congrArg Host.Outcome.next (putDisp_withEvents s e c)
  | fault x => rfl
  | refused x => rfl

/-- An event row answers the same whatever events are still to come, and leaves them as they are. -/
theorem exec_events {i : Instr} (hi : isEventRow i = true) (s : State) (e : List Byte) :
    exec i { s with events := e } = withEvents e (exec i s) := by
  cases i <;> simp only [isEventRow, Bool.false_eq_true] at hi
  case reset => rfl
  case rxByte b => exact runRx_events s e (·.receive b)
  case txByte => exact runTx_events s e (·.transfer)
  case tickPulse => rfl
  case irEdge l => exact runIr_events s e (·.edge l)
  case dispPoll r => exact runDisp_events s e (·.poll r)

/-! ### Executions -/

theorem execAll_cons (i : Instr) (is : List Instr) (s : State) :
    execAll (i :: is) s = andThen (exec i s) (execAll is) := rfl

theorem andThen_assoc {C D E : Type} (r : Answer C) (f : C → Answer D) (g : D → Answer E) :
    andThen (andThen r f) g = andThen r fun c => andThen (f c) g := by
  cases r <;> rfl

theorem andThen_next_right {C : Type} (r : Answer C) : andThen r .next = r := by cases r <;> rfl

theorem execAll_singleton (i : Instr) (s : State) : execAll [i] s = exec i s := andThen_next_right _

theorem execAll_append (is js : List Instr) (s : State) :
    execAll (is ++ js) s = andThen (execAll is s) (execAll js) := by
  induction is generalizing s with
  | nil => rfl
  | cons i is ih =>
    have hrest : execAll (is ++ js) = fun t => andThen (execAll is t) (execAll js) := funext ih
    rw [List.cons_append, execAll_cons, execAll_cons, andThen_assoc, hrest]

theorem execAll_append_of_next {is : List Instr} {s t : State} (h : execAll is s = .next t) (js : List Instr) :
    execAll (is ++ js) s = execAll js t := by
  rw [execAll_append, h, andThen_of_next]

theorem execAll_cons_of_next {i : Instr} {s t : State} (h : exec i s = .next t) (is : List Instr) :
    execAll (i :: is) s = execAll is t := by
  rw [execAll_cons, h, andThen_of_next]

/-- A step at the front of an encoded script performs its first event. -/
theorem step_encodeAll_cons {i : Instr} (hwf : i.wf = true) (is : List Instr) (s : State) (rest : List Byte) :
    step { s with events := encodeAll (i :: is) ++ rest } = exec i { s with events := encodeAll is ++ rest } := by
  have hfront : encodeAll (i :: is) ++ rest = encode i ++ (encodeAll is ++ rest) := by
    rw [encodeAll, encodeAll, List.flatMap_cons, List.append_assoc]
  exact step_of_decode (hfront ▸ decodeInvertsEncode i _ hwf)

/-- A run of the core is one step after another. -/
theorem core_run_succ (n : Nat) (s : State) :
    Sys2Proof.core.run (n + 1) s = andThen (step s) (Sys2Proof.core.run n) := by
  have hrun := Host.Core.run.eq_2 Sys2Proof.core s n
  refine hrun.trans ?_
  have hstep : Sys2Proof.core.step s = step s := rfl
  rw [hstep]
  cases step s <;> rfl

/-! ### The statements -/

/-- Settles O4: the three cases of the fetch. -/
theorem stepRunsDecodedInstruction : Obligations.StepRunsDecodedInstruction := fun _ =>
  ⟨fun _ _ => step_of_decode, step_of_no_events, fun _ hne hd => by rw [step, fetch_error hne hd]⟩

/-- Settles O51, by induction on the script; what an event leaves in the stream is what it found there. -/
theorem streamRunsScript : Obligations.StreamRunsScript := by
  intro is
  induction is with
  | nil => intro s rest _; rfl
  | cons i is ih =>
    intro s rest his
    obtain ⟨⟨hrow, hwf⟩, his⟩ := List.forall_mem_cons.1 his
    have hstep : step { s with events := encodeAll (i :: is) ++ rest } =
        withEvents (encodeAll is ++ rest) (exec i s) :=
      (step_encodeAll_cons hwf is s rest).trans (exec_events hrow s _)
    rw [execAll_cons, exec_events hrow, List.length_cons, core_run_succ, hstep]
    cases exec i s with
    | next t => exact ih t rest his
    | fault x => rfl
    | refused x => rfl

end Sys2Proof.Machine
end

section
/-! The invariant of R34, R45 and R46: every effect an instruction can have keeps it, so that every step does; and where
it holds no index is out of range. -/

namespace Sys2Proof.Machine

/-! ### What has been written stays written -/

theorem isSome_read_write {m : Memory} {i j : Nat} {v : Byte} :
    ((m.write i v).read j).isSome = true ↔ j = i ∨ (m.read j).isSome = true := by
  rw [Memory.read_write]
  split
  · simp [*]
  · simp [*]

theorem writtenBelow_write {m : Memory} {n : Nat} (i : Nat) (v : Byte) (h : WrittenBelow m n) :
    WrittenBelow (m.write i v) n := fun j hj => isSome_read_write.2 (.inr (h j hj))

/-- A byte written behind the written ones. -/
theorem writtenBelow_write_succ {m : Memory} {n : Nat} (v : Byte) (h : WrittenBelow m n) :
    WrittenBelow (m.write n v) (n + 1) := fun j hj =>
  isSome_read_write.2 (by by_cases hjn : j = n; exacts [.inl hjn, .inr (h j (by omega))])

theorem listedBelow_write {m : Memory} {i n : Nat} (v : Byte) (h : ListedBelow m n) (hi : i < n) :
    ListedBelow (m.write i v) n := fun j hj => by
  obtain rfl | hj := isSome_read_write.1 hj
  exacts [hi, h j hj]

theorem writtenBelow_writeAll (m : Memory) (vs : List Byte) : WrittenBelow (m.writeAll 0 vs) vs.length := by
  intro j hj
  rw [Memory.read_writeAll, if_pos (by omega), Nat.sub_zero, List.getElem?_eq_getElem hj]
  rfl

theorem listedBelow_writeAll {m : Memory} {vs : List Byte} {n : Nat} (h : ListedBelow m n) (hlen : vs.length ≤ n) :
    ListedBelow (m.writeAll 0 vs) n := by
  intro j hj
  rw [Memory.read_writeAll] at hj
  split at hj
  · omega
  · exact h j hj

/-! ### Registers as numbers -/

theorem half_add_one_toNat {h : Half} (hlt : h.toNat < 65535) : (h + 1).toNat = h.toNat + 1 := by
  rw [BitVec.toNat_add]
  exact Nat.mod_eq_of_lt (by simp; omega)

theorem loadedTx_len (c : Byte) {n : Nat} (hn : n ≤ 255) : (loadedTx c n).len.toNat = n + 1 := by
  rw [BitVec.toNat_ofNat]; exact Nat.mod_eq_of_lt (by omega)

/-! ### The invariant of the IR Decoder, phase by phase -/

/-- What items 6, 7 and 8 of R34 say of the decoder's registers, read off the phase. -/
def IrUnit.PhaseInv (u : IrUnit) : Prop :=
  match u.phase with
  | .idle => u.bitIdx = 0 ∧ u.word = 0 ∧ u.lastMark = false
  | .leadMark => u.level = .mark ∧ u.bitIdx = 0 ∧ u.lastMark = false
  | .leadSpace => u.level = .space ∧ u.bitIdx = 0 ∧ u.lastMark = false
  | .bitMark => u.level = .mark ∧ u.bitIdx.toNat ≤ 32 ∧ (u.lastMark = true ↔ u.bitIdx.toNat = 32)
  | .bitSpace => u.level = .space ∧ u.bitIdx.toNat ≤ 31 ∧ u.lastMark = false

theorem State.Inv.lastMark_off {s : State} (h : s.Inv) (hp : s.ir.phase ≠ .bitMark) : s.ir.lastMark = false :=
  Bool.eq_false_iff.2 fun hl => hp (h.lastMark hl).2

theorem State.Inv.phaseInv {s : State} (h : s.Inv) : s.ir.PhaseInv := by
  unfold IrUnit.PhaseInv
  cases hp : s.ir.phase <;> simp only
  case idle => exact h.idleClear hp
  case leadMark => exact ⟨h.markPhases (.inl hp), h.leader (.inl hp), h.lastMark_off (by simp [hp])⟩
  case leadSpace => exact ⟨h.spacePhases (.inl hp), h.leader (.inr hp), h.lastMark_off (by simp [hp])⟩
  case bitMark => exact ⟨h.markPhases (.inr hp), h.bitIdx, fun hl => (h.lastMark hl).1, h.bitMark hp⟩
  case bitSpace => exact ⟨h.spacePhases (.inr hp), h.bitSpace hp, h.lastMark_off (by simp [hp])⟩

/-- The state after an edge: the decoder, the tick source with a cleared count, the IR mailbox and the trace (R127). -/
abbrev edged (s : State) (ir : IrUnit) (en : Bool) (box : IrBox) (ds : List Drop) : State :=
  { s with ir := ir, tick := { en := en, cnt := 0 }, irBox := box, drops := ds }

/-- An edge that leaves the decoder's registers as the new phase asks, and the tick source on exactly outside
`IR_IDLE`. -/
theorem State.Inv.after_edge {s : State} (h : s.Inv) {ir : IrUnit} {en : Bool} (box : IrBox) (ds : List Drop)
    (hen : en = false ↔ ir.phase = .idle) (hir : ir.PhaseInv) : (edged s ir en box ds).Inv := by
  have hfits : 0 < 2 ^ s.cfg.tickW := Nat.two_pow_pos _
  unfold IrUnit.PhaseInv at hir
  cases hp : ir.phase <;> rw [hp] at hir <;> obtain ⟨hlevel, hidx, hlast⟩ := hir
  all_goals exact { h with
    tickIdle := hen
    tickZero := fun _ => rfl
    tickFits := hfits
    bitIdx := by simp_all <;> omega
    lastMark := by simp_all
    bitSpace := by simp_all
    bitMark := by simp_all
    leader := by simp_all
    idleClear := by simp_all
    markPhases := by simp_all
    spacePhases := by simp_all }

/-! ### Each effect keeps the invariant -/

section
variable {s t : State}

/-- The receiver outside the two states that hold a frame's bytes. -/
theorem State.Inv.rx_waiting (h : s.Inv) {u : RxUnit} (hd : u.state ≠ .readingData) (hc : u.state ≠ .readingChecksum)
    (ds : List Drop) : State.Inv { s with rx := u, drops := ds } :=
  { h with
    readingData := fun hs => absurd hs hd
    readingChecksum := fun hs => absurd hs hc
    dataWritten := fun hs => absurd hs hd
    frameWritten := fun hs => absurd hs hc }

/-- The sync matcher alone changes nothing the invariant speaks of. -/
theorem State.Inv.after_match (h : s.Inv) (b : Byte) : (stepped s b).Inv := { h with }

/-- An accepted length is in range and no byte of the frame is stored yet (R85). -/
theorem State.Inv.after_length (h : s.Inv) (b : Byte) : (lengthJudged s b).Inv := by
  by_cases hzero : s.rxColumns.decodedLen b = 0
  · rw [lengthJudged, if_pos hzero]
    exact h.rx_waiting (by simp) (by simp) _
  · by_cases hover : s.cfg.rxBufCap < (s.rxColumns.decodedLen b).toNat
    · rw [lengthJudged, if_neg hzero, if_pos hover]
      exact h.rx_waiting (by simp) (by simp) _
    · have hpos : (s.rxColumns.decodedLen b).toNat ≠ 0 := fun h0 => hzero (BitVec.eq_of_toNat_eq h0)
      rw [lengthJudged, if_neg hzero, if_neg hover]
      exact { h with
        readingData := fun _ => ⟨Nat.pos_of_ne_zero hpos, Nat.le_of_not_lt hover, Nat.pos_of_ne_zero hpos⟩
        readingChecksum := nofun
        dataWritten := fun _ j hj => absurd hj (Nat.not_lt_zero j)
        frameWritten := nofun }

/-- A stored data byte extends the bytes of the frame by one (R86). -/
theorem State.Inv.after_data (h : s.Inv) (b : Byte) (hs : s.rx.state = .readingData) (ho : s.rx.off.toNat < s.cfg.rxBufCap) :
    (storedData s b).Inv := by
  obtain ⟨hpos, hcap, hoff⟩ := h.readingData hs
  have hlen := s.rx.len.isLt
  have hnext : (s.rx.off + 1).toNat = s.rx.off.toNat + 1 := half_add_one_toNat (by omega)
  have hwritten := writtenBelow_write_succ b (h.dataWritten hs)
  by_cases hlast : s.rx.off.toNat + 1 = s.rx.len.toNat
  · rw [storedData, if_pos hlast]
    exact { h with
      rxBufWf := Memory.write_wf _ _ _ h.rxBufWf
      rxBufBound := listedBelow_write b h.rxBufBound ho
      readingData := nofun
      readingChecksum := fun _ => ⟨hpos, hcap, BitVec.eq_of_toNat_eq (hnext.trans hlast)⟩
      dataWritten := nofun
      frameWritten := fun _ => hlast ▸ hwritten
      packetWritten := fun hp => writtenBelow_write _ b (h.packetWritten hp) }
  · rw [storedData, if_neg hlast]
    exact { h with
      rxBufWf := Memory.write_wf _ _ _ h.rxBufWf
      rxBufBound := listedBelow_write b h.rxBufBound ho
      readingData := fun _ => ⟨hpos, hcap, by simp only [hnext]; omega⟩
      readingChecksum := nofun
      dataWritten := fun _ => by simpa only [hnext] using hwritten
      frameWritten := nofun
      packetWritten := fun hp => writtenBelow_write _ b (h.packetWritten hp) }

/-- An emitted packet is the whole frame, but for its command byte (R88). -/
theorem State.Inv.after_emission (h : s.Inv) (c : Byte) (hs : s.rx.state = .readingChecksum) :
    State.Inv { s with pkt := { pending := true, cmd := c, len := BitVec.ofNat 16 (s.rx.len.toNat - 1) } } := by
  obtain ⟨hpos, hcap, -⟩ := h.readingChecksum hs
  have hlen : (BitVec.ofNat 16 (s.rx.len.toNat - 1)).toNat = s.rx.len.toNat - 1 := by
    have := s.rx.len.isLt
    rw [BitVec.toNat_ofNat]; exact Nat.mod_eq_of_lt (by omega)
  have hall : s.rx.len.toNat - 1 + 1 = s.rx.len.toNat := by omega
  exact { h with
    pktLen := fun _ => by simp only [hlen]; omega
    packetWritten := fun _ => by simp only [hlen, hall]; exact h.frameWritten hs }

theorem State.Inv.after_rxByte (h : s.Inv) {b : Byte} (hx : execRxByte b s = .next t) : t.Inv := by
  obtain ⟨-, rfl⟩ | ⟨-, hcase⟩ := execRxByte_next hx
  · exact h.rx_waiting (by simp) (by simp) _
  · obtain ⟨-, rfl⟩ | ⟨-, rfl⟩ | ⟨-, rfl⟩ | ⟨hs, ho, rfl⟩ | ⟨-, -, rfl⟩ | ⟨hs, -, -, rfl⟩ := hcase
    · exact h.after_match b
    · exact h.rx_waiting (by simp) (by simp) s.drops
    · exact h.after_length b
    · exact h.after_data b hs ho
    · exact h.rx_waiting (by simp) (by simp) _
    · exact (h.after_emission _ hs).rx_waiting (u := { s.rx with state := .scanningSync, syncCnt := nextSync s.rx.syncCnt b })
        (by simp) (by simp) s.drops

/-- The sender with other registers that items 9 and R101 allow. -/
theorem State.Inv.tx_set (h : s.Inv) {u : TxUnit} (os : List Output)
    (hlen : u.state ≠ .idle → 1 ≤ u.len.toNat ∧ u.len.toNat ≤ 256) (hsync : u.state = .sync → u.idx.toNat ≤ 3)
    (hpay : u.state = .payload → u.idx.toNat + 1 < u.len.toNat) : State.Inv { s with tx := u, outputs := os } :=
  { h with
    txLen := hlen
    txSync := hsync
    txPayload := hpay }

theorem State.Inv.after_txByte (h : s.Inv) (hx : execTxByte s = .next t) : t.Inv := by
  obtain ⟨-, rfl⟩ | ⟨b, hs, -, rfl⟩ | ⟨hs, rfl⟩ | ⟨hs, rfl⟩ | ⟨hs, rfl⟩ | ⟨hs, hidx, rfl⟩ | ⟨-, rfl⟩ := execTxByte_next hx
  · exact h
  · have hlen := h.txLen (by simp [hs])
    have hidx := h.txSync hs
    by_cases hlast : s.tx.idx = 3
    · rw [if_pos hlast]
      exact h.tx_set _ (fun _ => hlen) nofun nofun
    · have hne : s.tx.idx.toNat ≠ 3 := fun h3 => hlast (BitVec.eq_of_toNat_eq h3)
      rw [if_neg hlast]
      exact h.tx_set _ (fun _ => hlen) (fun _ => by rw [half_add_one_toNat (by omega)]; omega) (by simp [hs])
  · exact h.tx_set _ (fun _ => h.txLen (by simp [hs])) nofun nofun
  · exact h.tx_set _ (fun _ => h.txLen (by simp [hs])) nofun nofun
  · have hlen := h.txLen (by simp [hs])
    by_cases hone : s.tx.len = 1
    · rw [if_pos hone]
      exact h.tx_set _ (fun _ => hlen) nofun nofun
    · have hne : s.tx.len.toNat ≠ 1 := fun h1 => hone (BitVec.eq_of_toNat_eq h1)
      rw [if_neg hone]
      exact h.tx_set _ (fun _ => hlen) nofun fun _ => by simp; omega
  · have hlen := h.txLen (by simp [hs])
    have hlt := h.txPayload hs
    by_cases hlast : s.tx.idx.toNat + 2 = s.tx.len.toNat
    · rw [payloadSent, if_pos hlast]
      exact h.tx_set _ (fun _ => hlen) nofun nofun
    · rw [payloadSent, if_neg hlast]
      exact h.tx_set _ (fun _ => hlen) (by simp [hs]) fun _ => by rw [half_add_one_toNat (by omega)]; simp only; omega
  · exact h.tx_set _ nofun nofun nofun

/-- A sender just loaded meets item 9 (R101). -/
theorem State.Inv.after_txStart (h : s.Inv) (c : Byte) {n : Nat} (hn : n ≤ 255) : State.Inv { s with tx := loadedTx c n } :=
  h.tx_set s.outputs (fun _ => by rw [loadedTx_len c hn]; omega) (fun _ => by simp) nofun

theorem State.Inv.after_tickPulse (h : s.Inv) (hx : exec .tickPulse s = .next t) : t.Inv := by
  by_cases hc : s.tick.Counts s.cfg
  · rw [exec_tickPulse_of_counts hc] at hx
    obtain rfl := next_inj.1 hx
    obtain ⟨hen, hlt⟩ := hc
    exact { h with
      tickZero := fun hoff => absurd (hen.symm.trans hoff) (by simp)
      tickFits := by unfold tickMax at hlt; simp only; omega }
  · rw [exec_tickPulse_of_not_counts hc] at hx
    obtain rfl := next_inj.1 hx
    exact h

theorem State.Inv.after_irEdge (h : s.Inv) {l : Level} (hx : execIrEdge l s = .next t) : t.Inv := by
  have hphase := h.phaseInv
  have hon : s.ir.phase ≠ .idle → ¬ s.tick.en = false := fun hp hoff => hp (h.tickIdle.1 hoff)
  unfold IrUnit.PhaseInv at hphase
  obtain ⟨-, hcase⟩ := execIrEdge_next hx
  obtain ⟨hp, rfl, rfl⟩ | ⟨hp, rfl, rfl⟩ | ⟨hp, rfl, rfl⟩ | ⟨hp, rfl, rfl⟩ | ⟨hp, rfl, hlast, rfl⟩ | ⟨hp, rfl, v, rfl⟩ |
    ⟨hp, -, -, rfl⟩ | ⟨hp, -, rfl⟩ | ⟨hp, d, rfl⟩ := hcase
  · exact h.after_edge _ _ (by simp) ⟨rfl, rfl, rfl⟩
  · exact h.after_edge _ _ (by simp [h.tickIdle, hp]) (h.idleClear hp)
  · rw [hp] at hphase
    exact h.after_edge _ _ (by simp [hon, hp]) ⟨rfl, hphase.2⟩
  · rw [hp] at hphase
    exact h.after_edge _ _ (by simp [hon, hp]) ⟨rfl, by simp [hphase.2.1, hphase.2.2]⟩
  · have hidx : s.ir.bitIdx.toNat ≠ 32 := fun h32 => by simp [h.bitMark hp h32] at hlast
    exact h.after_edge _ _ (by simp [hon, hp]) ⟨rfl, by have := h.bitIdx; simp only; omega, hlast⟩
  · rw [hp] at hphase
    obtain ⟨-, hidx, hlast⟩ := hphase
    have hnext : (s.ir.bitIdx + 1).toNat = s.ir.bitIdx.toNat + 1 := by
      rw [BitVec.toNat_add]; exact Nat.mod_eq_of_lt (by simp; omega)
    refine h.after_edge _ _ (by simp [hon, hp]) ⟨rfl, by simp only [hnext]; omega, ?_⟩
    simp only [hnext, hlast, ite_eq_left_iff, Bool.false_eq_true, imp_false, not_not]
  · exact h.after_edge _ _ (by simp) ⟨rfl, rfl, rfl⟩
  · exact h.after_edge _ _ (by simp) ⟨rfl, rfl, rfl⟩
  · exact h.after_edge _ _ (by simp) ⟨rfl, rfl, rfl⟩

/-- A response of at most 255 bytes stored, and the sender loaded with it (R151, R158, R159, R162). -/
theorem State.Inv.after_response (h : s.Inv) (c n : Byte) {vs : List Byte} (hlen : vs.length = n.toNat) (os : List Output) :
    State.Inv { s with respBuf := s.respBuf.writeAll 0 vs, respLen := n, tx := loadedTx c n.toNat, outputs := os } :=
  have hn := n.isLt
  { h.after_txStart c (n := n.toNat) (by omega) with
    respBufWf := Memory.writeAll_wf vs _ _ h.respBufWf
    respBufBound := listedBelow_writeAll h.respBufBound (by rw [hlen]; exact Nat.le_of_lt_succ hn)
    respWritten := hlen ▸ writtenBelow_writeAll s.respBuf vs }

/-- A packet taken from its mailbox. -/
theorem State.Inv.after_taking (h : s.Inv) (ds : List Drop) :
    State.Inv { s with pkt := { s.pkt with pending := false }, drops := ds } :=
  { h with
    pktLen := nofun
    packetWritten := nofun }

theorem State.Inv.after_emptyAnswer (h : s.Inv) (c : Byte) (o : Option Output) (d : Option Drop) :
    (emptyAnswered s c o d).Inv := (h.after_response c 0 (vs := []) rfl (addOutput s.outputs o)).after_taking (addDrop s.drops d)

theorem State.Inv.after_dispPoll (h : s.Inv) {r : List Byte} (hx : execDispPoll r s = .next t) : t.Inv := by
  obtain ⟨-, rfl⟩ | ⟨-, -, hrun⟩ | ⟨-, -, -, rfl⟩ := execDispPoll_next hx
  · exact h
  · obtain ⟨c, hc, rfl⟩ := runDisp_next.1 hrun
    obtain ⟨-, ht⟩ | ⟨q, -, ht | ht | ⟨d, ht⟩ | ⟨addr, count, hcount, ht⟩⟩ := handlePacket_next hc <;> rw [ht]
    · exact h.after_taking _
    · exact h.after_emptyAnswer _ _ _
    · exact h.after_emptyAnswer _ _ _
    · exact h.after_emptyAnswer _ _ _
    · exact (h.after_response 0x9B count (List.length_take_of_le hcount) _).after_taking s.drops
  · have hsent := h.after_response 0xDA 2 (vs := [s.irBox.addr, s.irBox.cmd]) rfl s.outputs
    exact { hsent with }

theorem State.Inv.after_reset (h : s.Inv) : s.resetRegs.Inv :=
  have hfits : 0 < 2 ^ s.cfg.tickW := Nat.two_pow_pos _
  { h with
    readingData := nofun
    readingChecksum := nofun
    tickIdle := ⟨fun _ => rfl, fun _ => rfl⟩
    tickZero := fun _ => rfl
    tickFits := hfits
    bitIdx := Nat.zero_le _
    lastMark := nofun
    bitSpace := nofun
    bitMark := nofun
    leader := nofun
    idleClear := fun _ => ⟨rfl, rfl, rfl⟩
    markPhases := nofun
    spacePhases := nofun
    txLen := fun hs => absurd rfl hs
    txSync := nofun
    txPayload := nofun
    pktLen := nofun
    dataWritten := nofun
    frameWritten := nofun
    packetWritten := nofun
    respWritten := fun j hj => absurd hj (Nat.not_lt_zero j) }

/-- The events to come, and what a run has recorded, are no matter of the invariant. -/
theorem State.Inv.with_events (h : s.Inv) (e : List Byte) : State.Inv { s with events := e } := { h with }

theorem Effect.keeps_inv {i : Instr} (he : Effect i s t) (h : s.Inv) : t.Inv := by
  cases he
  case reset => exact h.after_reset
  case rx b _ hx => exact h.after_rxByte hx
  case matched b => exact h.after_match b
  case emit b hs _ => exact h.after_emission _ hs
  case tx _ hx => exact h.after_txByte hx
  case tick hx => exact h.after_tickPulse hx
  case edge l _ hx => exact h.after_irEdge hx
  case poll r _ hx => exact h.after_dispPoll hx
  case start c n hn _ => exact h.after_txStart c hn
  case raised a c => exact { h with }
  case expanded is _ => exact h.with_events _

/-! ### Item 9 of R34: what is sent is the response -/

/-- With nothing to send TX.BYTE changes nothing. -/
theorem execTxByte_of_idle (hs : s.tx.state = .idle) : execTxByte s = .next s := by
  rw [execTxByte_eq, hs]

/-- A transfer keeps the length of the frame and of the response. -/
theorem State.SendsResponse.after_txByte (h : s.SendsResponse) (hx : execTxByte s = .next t) : t.SendsResponse := by
  by_cases hs : s.tx.state = .idle
  · rw [execTxByte_of_idle hs] at hx
    obtain rfl := next_inj.1 hx
    exact h
  · obtain ⟨c, -, rfl⟩ := runTx_next.1 hx
    exact fun _ => h hs

/-- An answer loads the sender with as many bytes as it stores. -/
theorem State.SendsResponse.after_dispPoll (h : s.SendsResponse) {r : List Byte} (hx : execDispPoll r s = .next t) :
    t.SendsResponse := by
  obtain ⟨-, rfl⟩ | ⟨-, -, hrun⟩ | ⟨-, -, -, rfl⟩ := execDispPoll_next hx
  · exact h
  · obtain ⟨c, hc, rfl⟩ := runDisp_next.1 hrun
    obtain ⟨-, ht⟩ | ⟨q, -, ht | ht | ⟨d, ht⟩ | ⟨addr, count, hcount, ht⟩⟩ := handlePacket_next hc <;> rw [ht]
    · exact h
    · exact fun _ => rfl
    · exact fun _ => rfl
    · exact fun _ => rfl
    · exact fun _ => loadedTx_len 0x9B (Nat.le_of_lt_succ count.isLt)
  · exact fun _ => rfl

/-- Every effect keeps item 9 but a TX.START of another count (log entry 7). -/
theorem Effect.keeps_sendsResponse {i : Instr} (he : Effect i s t) (h : s.SendsResponse)
    (hstart : ∀ c n, i = .txStart c n → n.toNat = s.respLen.toNat) : t.SendsResponse := by
  cases he
  case reset => exact fun hs => absurd rfl hs
  case rx b _ hx => obtain ⟨c, -, rfl⟩ := runRx_next.1 hx; exact h
  case matched b => exact h
  case emit b _ _ => exact h
  case tx _ hx => exact h.after_txByte hx
  case tick hx => obtain rfl := next_inj.1 hx; exact h
  case edge l _ hx => obtain ⟨c, -, rfl⟩ := runIr_next.1 hx; exact h
  case poll r _ hx => exact h.after_dispPoll hx
  case start c n hn _ => exact fun _ => (loadedTx_len c hn).trans (congrArg (· + 1) (hstart c n rfl))
  case raised a c => exact h
  case expanded is _ => exact h

/-- Settles O52: every instruction's effect keeps the invariant, and taking it from the stream changes nothing the
invariant speaks of. -/
theorem stepKeepsInvariant : Obligations.StepKeepsInvariant := by
  intro s t h hstep
  obtain ⟨-, hnone⟩ | ⟨e, herr⟩ | ⟨i, rest, hd, hexec⟩ := step_cases s
  · obtain rfl := next_inj.1 (hnone.symm.trans hstep)
    exact ⟨h, fun hsend _ => hsend⟩
  · exact absurd (herr.symm.trans hstep) nofun
  · have he := exec_effect (hexec.symm.trans hstep)
    exact ⟨he.keeps_inv (h.with_events rest), fun hsend hcount =>
      he.keeps_sendsResponse hsend fun c n hi => hcount c n rest (hi ▸ hd)⟩

/-! ### The state after reset and after power-up -/

theorem configLegal_default : ConfigLegal {} := by decide

theorem listedBelow_ofBytes {vs : List Byte} {n : Nat} (h : vs.length ≤ n) : ListedBelow (Memory.ofBytes vs) n := by
  intro i hi
  rw [Memory.read_ofBytes] at hi
  obtain ⟨v, hv⟩ := Option.isSome_iff_exists.1 hi
  exact Nat.lt_of_lt_of_le (List.getElem?_eq_some_iff.1 hv).1 h

/-- With any bytes in the arrays every register is idle, which the items allow (R211). -/
theorem powerUp_inv {rx resp : List Byte} (hrx : rx.length ≤ 1200) (hresp : resp.length ≤ 255) :
    (State.powerUp rx resp).Inv where
  legal := configLegal_default
  rxBufWf := Memory.ofBytes_wf rx
  respBufWf := Memory.ofBytes_wf resp
  rxBufBound := listedBelow_ofBytes hrx
  respBufBound := listedBelow_ofBytes hresp
  readingData := nofun
  readingChecksum := nofun
  tickIdle := ⟨fun _ => rfl, fun _ => rfl⟩
  tickZero := fun _ => rfl
  tickFits := Nat.two_pow_pos _
  bitIdx := Nat.zero_le _
  lastMark := nofun
  bitSpace := nofun
  bitMark := nofun
  leader := nofun
  idleClear := fun _ => ⟨rfl, rfl, rfl⟩
  markPhases := nofun
  spacePhases := nofun
  txLen := fun hs => absurd rfl hs
  txSync := nofun
  txPayload := nofun
  pktLen := nofun
  dataWritten := nofun
  frameWritten := nofun
  packetWritten := nofun
  respWritten := fun j hj => absurd hj (Nat.not_lt_zero j)

theorem powerUp_sendsResponse (rx resp : List Byte) : (State.powerUp rx resp).SendsResponse := fun hs => absurd rfl hs

/-- Settles O53: reset is the power-up with no bytes given. -/
theorem resetMeetsInvariant : Obligations.ResetMeetsInvariant :=
  ⟨powerUp_inv (rx := []) (resp := []) (Nat.zero_le _) (Nat.zero_le _), powerUp_sendsResponse [] [],
    fun _ _ hrx hresp => ⟨powerUp_inv hrx hresp, powerUp_sendsResponse _ _⟩⟩

end

end Sys2Proof.Machine
end

section
/-! No step faults where the invariant holds (R45, R183): each unit's step function reads and writes its buffer only at
the indices that the invariant bounds. -/

namespace Sys2Proof.Machine

/-- The answer is no fault. -/
def NoFault {C : Type} (r : Answer C) : Prop := ∀ f, r ≠ .fault f

section
variable {C : Type}

theorem noFault_next (c : C) : NoFault (.next c) := nofun

theorem noFault_refused (x : Refusal) : NoFault (.refused x : Answer C) := nofun

theorem noFault_ite {p : Prop} [Decidable p] {r q : Answer C} (hr : p → NoFault r) (hq : ¬ p → NoFault q) :
    NoFault (if p then r else q) := by
  by_cases h : p
  · rw [if_pos h]; exact hr h
  · rw [if_neg h]; exact hq h

theorem noFault_whenSelected {sel : Bool} {r : Answer C} (hr : sel = true → NoFault r) : NoFault (whenSelected sel r) := by
  cases sel
  · exact noFault_refused _
  · exact hr rfl

theorem noFault_andThen {D : Type} {r : Answer C} {f : C → Answer D} (hr : NoFault r) (hf : ∀ c, NoFault (f c)) :
    NoFault (andThen r f) := fun x h => by
  obtain h | ⟨u, -, h⟩ := andThen_fault.1 h
  exacts [hr x h, hf u x h]

end

/-! ### The Frame Receiver -/

theorem RxColumns.readingData_noFault {c : RxColumns} (b : Byte) (h : c.rx.off.toNat < c.cfg.rxBufCap) :
    NoFault (c.readingData b) := by
  rw [RxColumns.readingData, if_pos h]
  exact noFault_next _

theorem RxColumns.emitPacket_noFault {c : RxColumns} (h : 0 < c.cfg.rxBufCap) : NoFault c.emitPacket := by
  rw [emitPacket_next h]
  exact noFault_next _

theorem RxColumns.readingChecksum_noFault {c : RxColumns} (b : Byte) (h : 0 < c.cfg.rxBufCap) :
    NoFault (c.readingChecksum b) :=
  noFault_ite (fun _ => noFault_andThen (RxColumns.emitPacket_noFault h) fun _ => noFault_next _) fun _ => noFault_next _

/-! ### The Frame Sender -/

theorem TxColumns.sync_noFault {c : TxColumns} (h : c.tx.idx.toNat ≤ 3) : NoFault c.sync := by
  unfold TxColumns.sync
  split
  · rename_i hnone
    have hlen := List.getElem?_eq_none_iff.1 hnone
    simp only [syncPattern, List.length_cons, List.length_nil] at hlen
    omega
  · exact noFault_ite (fun _ => noFault_next _) fun _ => noFault_next _

theorem TxColumns.payload_noFault {c : TxColumns} (h : c.tx.idx.toNat < 255) : NoFault c.payload := by
  rw [TxColumns.payload, byteAt_ok.2 ⟨h, rfl⟩]
  exact noFault_ite (fun _ => noFault_next _) fun _ => noFault_next _

/-! ### The Command Dispatcher -/

/-- The pending packet lies inside RXBUF (R34 item 10). -/
def DispColumns.Fits (c : DispColumns) : Prop := c.ptr + c.pkt.len.toNat ≤ c.cfg.rxBufCap

theorem readRange_reads {c : DispColumns} {i n : Nat} (h : i + n ≤ c.cfg.rxBufCap) :
    c.readRange i n = .ok ((List.range n).map fun j => c.payload.rxByte (i + j)) :=
  readRange_ok.2 ⟨by simp, fun j hj => ⟨by omega, by simp [hj]⟩⟩

section
variable {c : DispColumns}

theorem payloadBytes_reads (hc : c.Fits) {i n : Nat} (h : i + n ≤ c.pkt.len.toNat) : ∃ vs, c.payloadBytes i n = .ok vs := by
  unfold DispColumns.Fits at hc
  exact ⟨_, readRange_reads (by omega)⟩

theorem payloadByte_reads (hc : c.Fits) {i : Nat} (h : i < c.pkt.len.toNat) : ∃ v, c.payloadByte i = .ok v := by
  unfold DispColumns.Fits at hc
  exact ⟨_, byteAt_ok.2 ⟨by omega, rfl⟩⟩

theorem payloadReaches_iff {q : Request} : c.payloadReaches q = true ↔ leastPayload q ≤ c.pkt.len.toNat := decide_eq_true_iff

theorem DispColumns.displayFlush_noFault (hc : c.Fits) : NoFault c.displayFlush := by
  refine noFault_ite (fun hlen => ?_) fun _ => noFault_next _
  obtain ⟨vs, hvs⟩ := payloadBytes_reads hc (i := 0) (n := 1024) (by rw [Nat.zero_add]; exact payloadReaches_iff.1 hlen)
  rw [hvs]
  exact noFault_next _

theorem DispColumns.displayPower_noFault (hc : c.Fits) : NoFault c.displayPower := by
  refine noFault_ite (fun hlen => ?_) fun _ => noFault_next _
  obtain ⟨v, hv⟩ := payloadByte_reads hc (i := 0) (payloadReaches_iff.1 hlen)
  rw [hv]
  exact noFault_next _

theorem DispColumns.displayBrightness_noFault (hc : c.Fits) : NoFault c.displayBrightness := by
  refine noFault_ite (fun hlen => ?_) fun _ => noFault_next _
  obtain ⟨v, hv⟩ := payloadByte_reads hc (i := 0) (payloadReaches_iff.1 hlen)
  rw [hv]
  exact noFault_next _

theorem DispColumns.busWrite_noFault (hc : c.Fits) : NoFault c.busWrite := by
  refine noFault_ite (fun hlen => ?_) fun _ => noFault_next _
  have hpos : 1 ≤ c.pkt.len.toNat := payloadReaches_iff.1 hlen
  obtain ⟨v, hv⟩ := payloadByte_reads hc (i := 0) hpos
  obtain ⟨vs, hvs⟩ := payloadBytes_reads hc (i := 1) (n := c.pkt.len.toNat - 1) (by omega)
  rw [hv, hvs]
  exact noFault_next _

theorem DispColumns.busRead_noFault (hc : c.Fits) (r : List Byte) : NoFault (c.busRead r) := by
  refine noFault_ite (fun hlen => ?_) fun _ => noFault_next _
  have htwo : 2 ≤ c.pkt.len.toNat := payloadReaches_iff.1 hlen
  obtain ⟨v, hv⟩ := payloadByte_reads hc (i := 0) (by omega)
  obtain ⟨n, hn⟩ := payloadByte_reads hc (i := 1) htwo
  rw [hv, hn]
  exact noFault_ite (fun _ => noFault_refused _) fun _ => noFault_next _

theorem DispColumns.handlePacket_noFault (hc : c.Fits) (r : List Byte) : NoFault (c.handlePacket r) := by
  unfold DispColumns.handlePacket
  split
  · exact noFault_next _
  · exact displayFlush_noFault hc
  · exact displayPower_noFault hc
  · exact displayBrightness_noFault hc
  · exact busWrite_noFault hc
  · exact busRead_noFault hc r
  · exact noFault_next _

end

/-! ### Every instruction -/

section
variable {s : State}

theorem runRx_noFault {f : RxColumns → Answer RxColumns} (hf : NoFault (f s.rxColumns)) : NoFault (s.runRx f) :=
  noFault_andThen hf fun _ => noFault_next _

theorem rxRow_noFault (s : State) {sel : RxColumns → Bool} {f : RxColumns → Answer RxColumns}
    (hf : sel s.rxColumns = true → NoFault (f s.rxColumns)) :
    NoFault (s.runRx fun c => whenSelected (sel c) (f c)) := runRx_noFault (noFault_whenSelected hf)

theorem rxTotalRow_noFault (s : State) {sel : RxColumns → Bool} {g : RxColumns → RxColumns} :
    NoFault (s.runRx fun c => whenSelected (sel c) (.next (g c))) := runRx_noFault (noFault_whenSelected fun _ => noFault_next _)

theorem runTx_noFault {f : TxColumns → Answer TxColumns} (hf : NoFault (f s.txColumns)) : NoFault (s.runTx f) :=
  noFault_andThen hf fun _ => noFault_next _

theorem txRow_noFault (s : State) {sel : TxColumns → Bool} {f : TxColumns → Answer TxColumns}
    (hf : sel s.txColumns = true → NoFault (f s.txColumns)) :
    NoFault (s.runTx fun c => whenSelected (sel c) (f c)) := runTx_noFault (noFault_whenSelected hf)

theorem txTotalRow_noFault (s : State) {sel : TxColumns → Bool} {g : TxColumns → TxColumns} :
    NoFault (s.runTx fun c => whenSelected (sel c) (.next (g c))) := runTx_noFault (noFault_whenSelected fun _ => noFault_next _)

theorem runIr_noFault {f : IrColumns → Answer IrColumns} (hf : NoFault (f s.irColumns)) : NoFault (s.runIr f) :=
  noFault_andThen hf fun _ => noFault_next _

theorem irTotalRow_noFault (s : State) {sel : IrColumns → Bool} {g : IrColumns → IrColumns} :
    NoFault (s.runIr fun c => whenSelected (sel c) (.next (g c))) := runIr_noFault (noFault_whenSelected fun _ => noFault_next _)

theorem runDisp_noFault {f : DispColumns → Answer DispColumns} (hf : NoFault (f s.dispColumns)) : NoFault (s.runDisp f) :=
  noFault_andThen hf fun _ => noFault_next _

theorem dispRow_noFault (s : State) {sel : DispColumns → Bool} {f : DispColumns → Answer DispColumns}
    (hf : sel s.dispColumns = true → NoFault (f s.dispColumns)) :
    NoFault (s.runDisp fun c => whenSelected (sel c) (f c)) := runDisp_noFault (noFault_whenSelected hf)

theorem dispTotalRow_noFault (s : State) {sel : DispColumns → Bool} {g : DispColumns → DispColumns} :
    NoFault (s.runDisp fun c => whenSelected (sel c) (.next (g c))) := runDisp_noFault (noFault_whenSelected fun _ => noFault_next _)

theorem State.Inv.cap_pos (h : s.Inv) : 0 < s.cfg.rxBufCap := by
  have := h.legal.1
  omega

theorem State.Inv.off_lt (h : s.Inv) (hs : s.rx.state = .readingData) : s.rx.off.toNat < s.cfg.rxBufCap := by
  obtain ⟨-, hcap, hoff⟩ := h.readingData hs
  omega

theorem State.Inv.idx_lt (h : s.Inv) (hs : s.tx.state = .payload) : s.tx.idx.toNat < 255 := by
  have hlen := h.txLen (by simp [hs])
  have hidx := h.txPayload hs
  omega

theorem State.Inv.packet_fits (h : s.Inv) (hp : s.pkt.pending = true) : s.dispColumns.Fits := by
  have hlen := h.pktLen hp
  have hcap := h.cap_pos
  show 1 + s.pkt.len.toNat ≤ s.cfg.rxBufCap
  omega

theorem State.Inv.rxByte_noFault (h : s.Inv) (b : Byte) : NoFault (execRxByte b s) := fun f hf => by
  obtain ⟨hs, hoff⟩ | ⟨-, hcap⟩ := execRxByte_fault hf
  · have := h.off_lt hs; omega
  · have := h.cap_pos; omega

theorem State.Inv.txByte_noFault (h : s.Inv) : NoFault (execTxByte s) := fun f hf => by
  obtain ⟨hs, hidx⟩ | ⟨hs, hidx⟩ := execTxByte_fault hf
  · have := h.txSync hs; omega
  · have := h.idx_lt hs; omega

theorem irEdge_noFault (s : State) (l : Level) : NoFault (execIrEdge l s) := by
  rw [execIrEdge_eq]
  exact noFault_ite (fun _ => noFault_next _) fun _ => noFault_refused _

theorem State.Inv.dispPoll_noFault (h : s.Inv) (r : List Byte) : NoFault (execDispPoll r s) := by
  rw [execDispPoll_eq]
  exact noFault_ite (fun _ => noFault_ite
    (fun hp => runDisp_noFault (DispColumns.handlePacket_noFault (h.packet_fits hp) r))
    fun _ => noFault_ite (fun _ => noFault_next _) fun _ => noFault_next _) fun _ => noFault_next _

/-- A command's row handles a packet only where one is pending. -/
theorem State.Inv.commandRow_noFault (h : s.Inv) {q : Option Request} {f : DispColumns → Answer DispColumns}
    (hf : ∀ c : DispColumns, c.Fits → NoFault (f c)) :
    NoFault (s.runDisp fun c => whenSelected (c.packetSelected q) (f c)) :=
  dispRow_noFault s fun hsel => hf _ (h.packet_fits (packetSelected_iff.1 hsel).2.1)

/-- No instruction faults, whichever case of an operation its row names. -/
theorem State.Inv.exec_noFault (h : s.Inv) (i : Instr) : NoFault (exec i s) := by
  unfold exec
  cases i
  case nop => exact h.commandRow_noFault fun _ _ => noFault_next _
  case displayFlush => exact h.commandRow_noFault fun _ => DispColumns.displayFlush_noFault
  case displayPower => exact h.commandRow_noFault fun _ => DispColumns.displayPower_noFault
  case displayBrightness => exact h.commandRow_noFault fun _ => DispColumns.displayBrightness_noFault
  case busWrite => exact h.commandRow_noFault fun _ => DispColumns.busWrite_noFault
  case busRead r => exact h.commandRow_noFault fun _ hc => DispColumns.busRead_noFault hc r
  case remoteButton | unknownCommand => exact dispTotalRow_noFault s
  case rxByte b => exact h.rxByte_noFault b
  case rxReadingData b =>
    exact rxRow_noFault s fun hsel => RxColumns.readingData_noFault b (h.off_lt (rxSelected_iff.1 hsel).1)
  case rxReadingChecksum b => exact rxRow_noFault s fun _ => RxColumns.readingChecksum_noFault b h.cap_pos
  case rxEmitPacket b => exact rxRow_noFault s fun _ => RxColumns.emitPacket_noFault h.cap_pos
  case rxSyncOverride | rxSyncMatchStep | rxScanningSync | rxLengthLow | rxLengthHigh => exact rxTotalRow_noFault s
  case txByte => exact h.txByte_noFault
  case txSync => exact txRow_noFault s fun hsel => TxColumns.sync_noFault (h.txSync (beq_iff_eq.1 hsel))
  case txPayload => exact txRow_noFault s fun hsel => TxColumns.payload_noFault (h.idx_lt (beq_iff_eq.1 hsel))
  case txLenLo | txLenHi | txCmd | txChk => exact txTotalRow_noFault s
  case irEdge l => exact irEdge_noFault s l
  case irRaiseEvent a k => exact runIr_noFault (f := fun c => .next (c.raiseButton a k)) (noFault_next _)
  case irIdle | irLeadMark | irLeadSpace | irBitMark | irBitSpace | irFinish | irRepeatCode | irAbort =>
    exact irTotalRow_noFault s
  case dispPoll r => exact h.dispPoll_noFault r
  case txStart | wireFrame => exact noFault_ite (fun _ => noFault_next _) fun _ => noFault_refused _
  case reset | tickPulse | irFrame | irRepeat => exact noFault_next _

/-- Settles O54: the instruction a step decodes does not fault; the byte TX.BYTE reads lies below `resp_len`. -/
theorem invariantRulesOutFaults : Obligations.InvariantRulesOutFaults := by
  intro s f h
  refine ⟨?_, fun hsend hs => ?_⟩
  · obtain ⟨-, hnone⟩ | ⟨e, herr⟩ | ⟨i, rest, -, hexec⟩ := step_cases s
    · rw [hnone]; exact noFault_next s f
    · rw [herr]; exact noFault_refused _ f
    · rw [hexec]; exact (h.with_events rest).exec_noFault i f
  · have hlen := hsend (by simp [hs])
    have hidx := h.txPayload hs
    exact h.respWritten _ (by omega)

end

end Sys2Proof.Machine
end

section
/-! The Frame Receiver over byte sequences (R90, R93 to R95, R194): what a byte can change, the sync counter of `scan`,
and a whole frame with its checksum right or wrong. -/

namespace Sys2Proof.Machine

/-! ### One byte -/

theorem addDrop_eq_append (ds : List Drop) (d : Option Drop) : addDrop ds d = ds ++ d.toList := by
  cases d <;> simp [addDrop]

theorem addOutput_eq_append (os : List Output) (o : Option Output) : addOutput os o = os ++ o.toList := by
  cases o <;> simp [addOutput]

section
variable {s t u : State} {b : Byte}

/-- R87, a byte that is not the checksum. -/
theorem execRxByte_wrongChecksum (hs : s.rx.state = .readingChecksum) (hc : ¬ CompletesSync s.rx.syncCnt b)
    (hb : b ≠ s.rx.chk) : execRxByte b s = .next (checksumDropped s b) := by
  simp only [execRxByte_eq, if_neg hc, hs, if_neg hb]

theorem lengthJudged_rxBuf (s : State) (b : Byte) : (lengthJudged s b).rxBuf = s.rxBuf := by
  rw [lengthJudged_eq s b rfl]
  split
  · rfl
  · split <;> rfl

theorem lengthJudged_syncCnt (s : State) (b : Byte) : (lengthJudged s b).rx.syncCnt = nextSync s.rx.syncCnt b := by
  rw [lengthJudged_eq s b rfl]
  split
  · rfl
  · split <;> rfl

/-- What RX.BYTE does to RXBUF: nothing, or one byte below the capacity (R45, R86). -/
theorem execRxByte_rxBuf (h : execRxByte b s = .next t) :
    t.rxBuf = s.rxBuf ∨
    s.rx.state = .readingData ∧ ¬ CompletesSync s.rx.syncCnt b ∧ s.rx.off.toNat < s.cfg.rxBufCap ∧
      t.rxBuf = s.rxBuf.write s.rx.off.toNat b := by
  obtain ⟨-, rfl⟩ | ⟨hc, hcase⟩ := execRxByte_next h
  · exact .inl rfl
  · obtain ⟨-, rfl⟩ | ⟨-, rfl⟩ | ⟨-, rfl⟩ | ⟨hs, ho, rfl⟩ | ⟨-, -, rfl⟩ | ⟨-, -, -, rfl⟩ := hcase
    case inr.inr.inr.inl => exact .inl (lengthJudged_rxBuf s b)
    case inr.inr.inr.inr.inl => exact .inr ⟨hs, hc, ho, rfl⟩
    all_goals exact .inl rfl

theorem execRxByte_rxBuf_read (h : execRxByte b s = .next t) {i : Nat}
    (hi : ¬ (s.rx.state = .readingData ∧ ¬ CompletesSync s.rx.syncCnt b ∧ i = s.rx.off.toNat)) :
    t.rxBuf.read i = s.rxBuf.read i := by
  obtain hbuf | ⟨hs, hc, -, hbuf⟩ := execRxByte_rxBuf h <;> rw [hbuf]
  exact Memory.read_write_other _ _ fun hoff => hi ⟨hs, hc, hoff⟩

/-- The counter after a byte (R81, R82). -/
theorem execRxByte_syncCnt (h : execRxByte b s = .next t) :
    t.rx.syncCnt = if CompletesSync s.rx.syncCnt b then 0 else nextSync s.rx.syncCnt b := by
  obtain ⟨hc, rfl⟩ | ⟨hc, hcase⟩ := execRxByte_next h
  · rw [if_pos hc]
  · rw [if_neg hc]
    obtain ⟨-, rfl⟩ | ⟨-, rfl⟩ | ⟨-, rfl⟩ | ⟨-, -, rfl⟩ | ⟨-, -, rfl⟩ | ⟨-, -, -, rfl⟩ := hcase
    case inr.inr.inr.inl => exact lengthJudged_syncCnt s b
    all_goals rfl

/-- A byte that leaves no packet pending delivered none and met none (R86, R88). -/
theorem execRxByte_quiet (h : execRxByte b s = .next t) (ht : t.pkt.pending = false) :
    s.pkt.pending = false ∧ t.pkt = s.pkt ∧ t.faultSeen = s.faultSeen := by
  obtain ⟨c, -, rfl⟩ := runRx_next.1 h
  rw [State.putRx_pkt] at ht
  rw [State.putRx_pkt, State.putRx_faultSeen]
  cases hpkt : c.packet with
  | some p => rw [hpkt] at ht; exact absurd ht (by simp [fillPacket])
  | none =>
    rw [hpkt] at ht
    have hs : s.pkt.pending = false := ht
    refine ⟨hs, rfl, ?_⟩
    cases c.store with
    | none => rfl
    | some p => rw [State.hostFault, hs, Bool.or_false]

end

/-! ### The statements about one byte -/

/-- Settles O13. -/
theorem wrongChecksumIsDropped : Obligations.WrongChecksumIsDropped := fun _ _ hs hc hb =>
  bothAnswer_framingRow hs hc (execRxByte_wrongChecksum hs hc hb)

/-- Settles O16: the columns it returns are written back, and they are the same in `u`. -/
theorem rxByteKeepsToItsColumns : Obligations.RxByteKeepsToItsColumns := by
  intro s t u b h
  have hread := fun i => execRxByte_rxBuf_read (i := i) h
  refine ⟨?_, fun hcfg hrx hfirst => ?_⟩
  · obtain ⟨c, -, rfl⟩ := runRx_next.1 h
    refine ⟨rfl, rfl, rfl, rfl, rfl, rfl, rfl, rfl, fun hp => ?_, fun _ => rfl, hread⟩
    rw [State.putRx_pkt]
    cases c.packet
    · exact hp
    · rfl
  · have hcols : u.rxColumns = s.rxColumns := by simp only [State.rxColumns, hcfg, hrx, hfirst]
    obtain ⟨c, rfl, hu⟩ := runRx_congr hcols h
    refine ⟨u.putRx c, c.dropped.toList, hu, rfl, ?_, fun i => ?_, addDrop_eq_append _ _, addDrop_eq_append _ _⟩
    · rw [State.putRx_pkt, State.putRx_pkt]
      cases c.packet
      · exact .inr ⟨rfl, rfl⟩
      · exact .inl ⟨rfl, rfl⟩
    · rw [State.putRx_rxBuf, State.putRx_rxBuf]
      cases c.store with
      | none => exact .inr ⟨rfl, rfl⟩
      | some p =>
        simp only [storeByte, Memory.read_write]
        by_cases hi : i = p.1
        · exact .inl (by rw [if_pos hi, if_pos hi])
        · exact .inr ⟨if_neg hi, if_neg hi⟩

/-- Settles O17: a byte is stored below the capacity only, and an oversize length is one outcome of R85. -/
theorem oversizeLengthStoresNothing : Obligations.OversizeLengthStoresNothing := by
  refine fun s b => ⟨fun t i h hi => ?_, fun hs hc hover => ?_⟩
  · obtain hbuf | ⟨-, -, ho, hbuf⟩ := execRxByte_rxBuf h <;> rw [hbuf]
    exact Memory.read_write_other _ _ (by omega)
  · have hjudged : lengthJudged s b = highTaken s b .scanningSync s.rx.off (some .oversize) := by
      rw [lengthJudged_eq s b rfl, if_neg (by omega), if_pos hover]
    exact ⟨_, execRxByte_lengthHigh hs hc, by rw [hjudged], by rw [hjudged]; exact ⟨fun _ => rfl, fun _ => rfl⟩,
      by rw [hjudged]⟩

/-! ### The sync matcher over byte sequences -/

theorem completesSync_iff {k : BitVec 2} {b : Byte} : b = syncByte k ∧ k = 3 ↔ CompletesSync k b := by
  constructor
  · rintro ⟨rfl, rfl⟩; exact ⟨rfl, rfl⟩
  · rintro ⟨rfl, rfl⟩; exact ⟨rfl, rfl⟩

theorem nextSync_eq {k : BitVec 2} {b : Byte} (h : ¬ CompletesSync k b) :
    (if b = syncByte k then k + 1 else 0) = nextSync k b := by
  obtain rfl | rfl | rfl | rfl := bv2_cases k
  · simp [nextSync, syncByte]
  · simp [nextSync, syncByte]
  · simp [nextSync, syncByte]
  · simp [nextSync, syncByte]

/-- R90's recursion, in the words of R81 and R82. -/
theorem scan_cons (k : BitVec 2) (b : Byte) (bs : List Byte) :
    scan k (b :: bs) = if CompletesSync k b then (true, (scan 0 bs).2) else scan (nextSync k b) bs := by
  rw [scan, if_congr completesSync_iff rfl rfl]
  by_cases h : CompletesSync k b
  · rw [if_pos h, if_pos h]
  · rw [if_neg h, if_neg h, nextSync_eq h]

/-- A sync-free sequence, byte by byte. -/
theorem scan_cons_free {k : BitVec 2} {b : Byte} {bs : List Byte} (h : (scan k (b :: bs)).1 = false) :
    ¬ CompletesSync k b ∧ scan k (b :: bs) = scan (nextSync k b) bs := by
  rw [scan_cons] at h
  have hc : ¬ CompletesSync k b := fun hc => by rw [if_pos hc] at h; cases h
  exact ⟨hc, by rw [scan_cons, if_neg hc]⟩

/-- A sync-free sequence, cut in two. -/
theorem scan_append_free {k : BitVec 2} {as bs : List Byte} (h : (scan k (as ++ bs)).1 = false) :
    (scan k as).1 = false ∧ (scan (scan k as).2 bs).1 = false := by
  induction as generalizing k with
  | nil => exact ⟨rfl, h⟩
  | cons a as ih =>
    obtain ⟨hc, hrest⟩ := scan_cons_free (bs := as ++ bs) h
    rw [scan_cons, if_neg hc]
    exact ih (hrest ▸ h)

theorem execAll_rxScript_cons (b : Byte) (bs : List Byte) (s : State) :
    execAll (rxScript (b :: bs)) s = andThen (execRxByte b s) (execAll (rxScript bs)) := rfl

theorem rxScript_append (as bs : List Byte) : rxScript (as ++ bs) = rxScript as ++ rxScript bs := List.map_append

/-- Settles O18, by induction on the bytes. -/
theorem scanPredictsSyncCounter : Obligations.ScanPredictsSyncCounter := by
  intro bs
  induction bs with
  | nil =>
    intro s t h
    obtain rfl := next_inj.1 h
    rfl
  | cons b bs ih =>
    intro s t h
    rw [execAll_rxScript_cons] at h
    obtain ⟨m, hb, hbs⟩ := andThen_next.1 h
    rw [ih m t hbs, execRxByte_syncCnt hb, scan_cons]
    split <;> rfl

/-- Bytes that leave no packet pending delivered none and met none. -/
theorem rxScript_quiet {bs : List Byte} {s t : State} (h : execAll (rxScript bs) s = .next t)
    (ht : t.pkt.pending = false) : t.pkt = s.pkt ∧ t.faultSeen = s.faultSeen := by
  induction bs generalizing s with
  | nil =>
    obtain rfl := next_inj.1 h
    exact ⟨rfl, rfl⟩
  | cons b bs ih =>
    rw [execAll_rxScript_cons] at h
    obtain ⟨m, hb, hbs⟩ := andThen_next.1 h
    obtain ⟨hpkt, hfault⟩ := ih hbs
    obtain ⟨-, hpkt', hfault'⟩ := execRxByte_quiet hb (hpkt ▸ ht)
    exact ⟨hpkt.trans hpkt', hfault.trans hfault'⟩

theorem rxScript_cfg {bs : List Byte} {s t : State} (h : execAll (rxScript bs) s = .next t) : t.cfg = s.cfg := by
  induction bs generalizing s with
  | nil => obtain rfl := next_inj.1 h; rfl
  | cons b bs ih =>
    rw [execAll_rxScript_cons] at h
    obtain ⟨m, hb, hbs⟩ := andThen_next.1 h
    obtain ⟨c, -, rfl⟩ := runRx_next.1 hb
    have hcfg := ih hbs
    exact hcfg

/-- A completed sync pattern arms the receiver (R82). -/
theorem armed_of_syncPattern {s u : State} (hk : s.rx.syncCnt = 0) (h : execAll (rxScript syncPattern) s = .next u) :
    u.rx.state = .lengthLow ∧ u.rx.syncCnt = 0 ∧ u.rx.chk = 0 := by
  have hcut : execAll (rxScript ([0x91, 0xEB, 0xFA] ++ [0x58])) s = .next u := h
  rw [rxScript_append, execAll_append] at hcut
  obtain ⟨m, hthree, hlast⟩ := andThen_next.1 hcut
  have hm : m.rx.syncCnt = 3 := by
    rw [scanPredictsSyncCounter _ _ _ hthree, hk]; decide
  have hover : execAll (rxScript [0x58]) m = .next (overridden m) :=
    (execAll_singleton _ m).trans (execRxByte_override ⟨hm, rfl⟩)
  obtain rfl := next_inj.1 (hover.symm.trans hlast)
  exact ⟨rfl, rfl, rfl⟩

/-- Under the invariant every byte is taken. -/
theorem State.Inv.execRxByte_completes {s : State} (h : s.Inv) (b : Byte) : ∃ t, execRxByte b s = .next t ∧ t.Inv := by
  cases hx : execRxByte b s with
  | next t => exact ⟨t, rfl, h.after_rxByte hx⟩
  | fault f => exact absurd hx (h.rxByte_noFault b f)
  | refused x => exact absurd hx execRxByte_not_refused

theorem State.Inv.rxScript_completes {s : State} (h : s.Inv) (bs : List Byte) : ∃ t, execAll (rxScript bs) s = .next t := by
  induction bs generalizing s with
  | nil => exact ⟨s, rfl⟩
  | cons b bs ih =>
    obtain ⟨m, hb, hm⟩ := h.execRxByte_completes b
    rw [execAll_rxScript_cons, hb]
    exact ih hm

/-- Settles O19. -/
theorem syncPatternRearmsReceiver : Obligations.SyncPatternRearmsReceiver := by
  intro s h hk
  obtain ⟨t, ht⟩ := h.rxScript_completes syncPattern
  exact ⟨t, ht, armed_of_syncPattern hk ht⟩

/-! ### A whole frame -/

theorem chkLen_eq (cfg : Config) (x b : Byte) : chkLen cfg x b = x ^^^ chkLen cfg 0 b := by
  unfold chkLen
  split <;> simp

theorem xorAll_singleton (b : Byte) : xorAll [b] = b := BitVec.xor_zero

/-- The checksum that the receiver accumulates over the length bytes and the data (R84 to R86). -/
def accumulated (cfg : Config) (lo hi : Byte) (data : List Byte) : Byte :=
  chkLen cfg (chkLen cfg 0 lo) hi ^^^ xorAll data

theorem frameChecksum_eq_accumulated (cfg : Config) (c : Byte) (p : List Byte) :
    frameChecksum cfg c p = accumulated cfg (halfLo (lenField p.length)) (halfHi (lenField p.length)) (c :: p) := by
  rw [frameChecksum, accumulated, chkLen_eq, chkLen_eq _ (c ^^^ xorAll p), chkLen_eq _ (chkLen cfg 0 _), xorAll]
  ac_rfl

theorem halfLo_setWidth (b : Byte) : halfLo (b.setWidth 16) = b := by
  apply BitVec.eq_of_toNat_eq
  have := b.isLt
  rw [halfLo, BitVec.extractLsb'_toNat, BitVec.toNat_setWidth, Nat.shiftRight_zero]
  omega

/-- The receiver after the data bytes of a frame, its checksum byte awaited. -/
def dataStored (s : State) (data : List Byte) : State :=
  { s with
    rx := { state := .readingChecksum, syncCnt := (scan s.rx.syncCnt data).2, len := s.rx.len, off := s.rx.len,
            chk := s.rx.chk ^^^ xorAll data }
    rxBuf := s.rxBuf.writeAll s.rx.off.toNat data }

/-- A data byte stored while no packet is pending (R86). -/
theorem storedData_of_not_pending {s : State} (b : Byte) (hp : s.pkt.pending = false) :
    storedData s b = { s with
      rx := { state := if s.rx.off.toNat + 1 = s.rx.len.toNat then .readingChecksum else .readingData,
              syncCnt := nextSync s.rx.syncCnt b, len := s.rx.len, off := s.rx.off + 1, chk := s.rx.chk ^^^ b },
      rxBuf := s.rxBuf.write s.rx.off.toNat b } := by
  simp only [storedData, hp, Bool.or_false]

/-- The data bytes that fill a frame are stored in order (R86), by induction on them. -/
theorem execAll_data {s : State} {b : Byte} {bs : List Byte} (hs : s.rx.state = .readingData)
    (hlen : s.rx.off.toNat + (b :: bs).length = s.rx.len.toNat) (hcap : s.rx.len.toNat ≤ s.cfg.rxBufCap)
    (hp : s.pkt.pending = false) (hfree : (scan s.rx.syncCnt (b :: bs)).1 = false) :
    execAll (rxScript (b :: bs)) s = .next (dataStored s (b :: bs)) := by
  induction bs generalizing s b with
  | nil =>
    obtain ⟨hc, -⟩ := scan_cons_free hfree
    have hlast : s.rx.off.toNat + 1 = s.rx.len.toNat := hlen
    have hoff : s.rx.off + 1 = s.rx.len := by
      have := s.rx.len.isLt
      exact BitVec.eq_of_toNat_eq ((half_add_one_toNat (by omega)).trans hlast)
    rw [execAll_rxScript_cons, execRxByte_readingData hs hc (by omega), storedData_of_not_pending b hp, if_pos hlast, hoff,
      dataStored, scan_cons, if_neg hc, xorAll_singleton]
    rfl
  | cons b' bs ih =>
    obtain ⟨hc, hrest⟩ := scan_cons_free hfree
    rw [List.length_cons, List.length_cons] at hlen
    have hbound := s.rx.len.isLt
    have hoff : (s.rx.off + 1).toNat = s.rx.off.toNat + 1 := half_add_one_toNat (by omega)
    have hmore : ¬ s.rx.off.toNat + 1 = s.rx.len.toNat := by omega
    rw [execAll_rxScript_cons, execRxByte_readingData hs hc (by omega), storedData_of_not_pending b hp, if_neg hmore,
      andThen_of_next]
    refine Eq.trans (ih rfl (by simp only [hoff, List.length_cons]; omega) hcap hp (hrest ▸ hfree)) ?_
    simp only [dataStored, hoff, hrest, xorAll, BitVec.xor_assoc]
    rfl

/-- The receiver after the body of a frame of these data bytes, its checksum byte awaited. -/
def bodyTaken (s : State) (lo hi : Byte) (data : List Byte) : State :=
  { s with
    rx := { state := .readingChecksum, syncCnt := (scan s.rx.syncCnt (lo :: hi :: data)).2, len := halfOf lo hi,
            off := halfOf lo hi, chk := accumulated s.cfg lo hi data }
    rxBuf := s.rxBuf.writeAll 0 data }

/-- From the armed receiver: the two length bytes, then the data (R84 to R86). -/
theorem execAll_body {s : State} {lo hi b : Byte} {bs : List Byte} (hs : s.rx.state = .lengthLow) (hchk : s.rx.chk = 0)
    (hlen : (halfOf lo hi).toNat = (b :: bs).length) (hcap : (b :: bs).length ≤ s.cfg.rxBufCap)
    (hp : s.pkt.pending = false) (hfree : (scan s.rx.syncCnt (lo :: hi :: b :: bs)).1 = false) :
    execAll (rxScript (lo :: hi :: b :: bs)) s = .next (bodyTaken s lo hi (b :: bs)) := by
  obtain ⟨hc, hrest⟩ := scan_cons_free hfree
  obtain ⟨hc', hrest'⟩ := scan_cons_free (hrest ▸ hfree)
  have hfree' : (scan (nextSync (nextSync s.rx.syncCnt lo) hi) (b :: bs)).1 = false := by rw [← hrest', ← hrest, hfree]
  have hdecoded : (lowTaken s lo).rxColumns.decodedLen hi = halfOf lo hi := congrArg (halfOf · hi) (halfLo_setWidth lo)
  have hnz : halfOf lo hi ≠ 0 := fun h0 => by rw [h0] at hlen; cases hlen
  have hjudged : lengthJudged (lowTaken s lo) hi = highTaken (lowTaken s lo) hi .readingData 0 none := by
    rw [lengthJudged, hdecoded, if_neg hnz, if_neg (by rw [hlen]; exact Nat.not_lt.2 hcap)]
  rw [execAll_rxScript_cons, execRxByte_lengthLow hs hc, andThen_of_next, execAll_rxScript_cons,
    execRxByte_lengthHigh (s := lowTaken s lo) rfl hc', andThen_of_next, hjudged, highTaken, hdecoded]
  refine Eq.trans (execAll_data rfl (by rw [hlen]; exact Nat.zero_add _) (by rw [hlen]; exact hcap) hp hfree') ?_
  rw [bodyTaken, accumulated, hrest, hrest', ← hchk]
  rfl

/-- A frame after the sync pattern: everything before its checksum byte is taken, and the byte is no override. -/
theorem execAll_frame {s u : State} {lo hi y : Byte} {data : List Byte} (hk : s.rx.syncCnt = 0)
    (hu : execAll (rxScript syncPattern) s = .next u) (hp : u.pkt.pending = false) (hpos : 0 < data.length)
    (hlen : (halfOf lo hi).toNat = data.length) (hcap : data.length ≤ s.cfg.rxBufCap)
    (hfree : (scan 0 (lo :: hi :: (data ++ [y]))).1 = false) :
    execAll (rxScript (syncPattern ++ lo :: hi :: (data ++ [y]))) s = execRxByte y (bodyTaken u lo hi data) ∧
      ¬ CompletesSync (bodyTaken u lo hi data).rx.syncCnt y := by
  obtain ⟨b, bs, rfl⟩ := List.exists_cons_of_length_pos hpos
  obtain ⟨hstate, hsync, hchk⟩ := armed_of_syncPattern hk hu
  obtain ⟨hbody, hlast⟩ := scan_append_free (as := lo :: hi :: b :: bs) (bs := [y]) (hsync ▸ hfree)
  have htaken := execAll_body hstate hchk hlen (rxScript_cfg hu ▸ hcap) hp hbody
  refine ⟨?_, (scan_cons_free hlast).1⟩
  rw [rxScript_append, execAll_append_of_next hu,
    show lo :: hi :: (b :: bs ++ [y]) = (lo :: hi :: b :: bs) ++ [y] from rfl, rxScript_append,
    execAll_append_of_next htaken]
  exact execAll_singleton (.rxByte y) _

/-- The length field of a frame, from its two bytes (R62). -/
theorem lenField_toNat {n : Nat} (hn : n + 1 < 65536) :
    (halfOf (halfLo (lenField n)) (halfHi (lenField n))).toNat = n + 1 := by
  rw [halfOf_bytes, lenField, BitVec.toNat_ofNat]
  exact Nat.mod_eq_of_lt hn

/-- Settles O20: the checksum byte of the frame is the one accumulated, so the packet is emitted. -/
theorem frameRoundTrip : Obligations.FrameRoundTrip := by
  intro s u c p hmin hmax hlen hk hnone hu hp hfree
  have hfield := lenField_toNat (n := p.length) (by omega)
  obtain ⟨hrun, hc⟩ := execAll_frame (data := c :: p) hk hu hp (Nat.succ_pos _) hfield
    (by rw [List.length_cons]; omega) hfree
  have hcfg := rxScript_cfg hu
  have hchk : frameChecksum s.cfg c p =
      (bodyTaken u (halfLo (lenField p.length)) (halfHi (lenField p.length)) (c :: p)).rx.chk := by
    rw [frameChecksum_eq_accumulated, ← hcfg]; rfl
  have hread : ∀ i, (u.rxBuf.writeAll 0 (c :: p)).read i =
      if i < (c :: p).length then (c :: p)[i]? else u.rxBuf.read i := by
    intro i; rw [Memory.read_writeAll]; simp
  have hfirst : (u.rxBuf.writeAll 0 (c :: p)).read 0 = some c := by rw [hread]; rfl
  refine ⟨_, hrun.trans (execRxByte_rightChecksum rfl hc hchk (show 0 < u.cfg.rxBufCap by rw [hcfg]; omega)), ?_, hfirst, ?_,
    rfl, (rxScript_quiet hu hp).2⟩
  · rw [emitted, PktBox.mk.injEq]
    refine ⟨rfl, Memory.rxByte_of_read hfirst, ?_⟩
    exact congrArg (fun n => BitVec.ofNat 16 (n - 1)) hfield
  · intro i hi
    exact (hread (1 + i)).trans (by rw [if_pos (by rw [List.length_cons]; omega), Nat.add_comm, List.getElem?_cons_succ])

/-! ### One flipped bit -/

theorem xorAll_set {bs : List Byte} {k : Nat} {x : Byte} (e : Byte) (h : bs[k]? = some x) :
    xorAll (bs.set k (x ^^^ e)) = xorAll bs ^^^ e := by
  induction bs generalizing k with
  | nil => cases h
  | cons b bs ih =>
    cases k with
    | zero =>
      obtain rfl := Option.some.inj h
      simp only [List.set_cons_zero, xorAll]
      ac_rfl
    | succ k =>
      simp only [List.set_cons_succ, xorAll, ih h]
      ac_rfl

theorem xor_ne_self {x e : Byte} (he : e ≠ 0) : x ^^^ e ≠ x := fun h => he (by
  have hself := congrArg (x ^^^ ·) h
  simpa [← BitVec.xor_assoc] using hself)

/-- A change of one data byte, or of the checksum byte, leaves a frame whose checksum byte is not the one accumulated. -/
theorem accumulated_ne_of_flip {cfg : Config} {lo hi x e y : Byte} {data : List Byte} {k : Nat} (he : e ≠ 0)
    (hy : y = accumulated cfg lo hi data) (hx : (data ++ [y])[k]? = some x) :
    ∃ data' y', (data ++ [y]).set k (x ^^^ e) = data' ++ [y'] ∧ data'.length = data.length ∧
      y' ≠ accumulated cfg lo hi data' := by
  obtain hk | hk := Nat.lt_or_ge k data.length
  · rw [List.getElem?_append_left hk] at hx
    refine ⟨data.set k (x ^^^ e), y, List.set_append_left _ _ hk, List.length_set, fun h => ?_⟩
    rw [accumulated, xorAll_set e hx, ← BitVec.xor_assoc] at h
    exact xor_ne_self he (h.symm.trans hy)
  · obtain rfl : k = data.length := by
      have := (List.getElem?_eq_some_iff.1 hx).1
      rw [List.length_append, List.length_singleton] at this
      omega
    obtain rfl : y = x := by simpa using hx
    exact ⟨data, y ^^^ e, by simp, rfl, fun h => xor_ne_self he (h.trans hy.symm)⟩

theorem bit_ne_zero {j : Nat} (hj : j < 8) : BitVec.ofNat 8 (2 ^ j) ≠ 0 := by
  revert j; decide

/-- Settles O21: the altered frame is taken whole, and its checksum byte is not the one accumulated. -/
theorem flippedBitIsDropped : Obligations.FlippedBitIsDropped := by
  intro s u c x p body k j hmin hmax hlen hk hnone hu hp hk2 hj hx hbody hfree
  obtain ⟨k, rfl⟩ := Nat.exists_eq_add_of_le' hk2
  have hfield := lenField_toNat (n := p.length) (by omega)
  obtain ⟨data, y, hset, hlen', hne⟩ := accumulated_ne_of_flip (k := k) (data := c :: p) (bit_ne_zero hj)
    (frameChecksum_eq_accumulated s.cfg c p) hx
  obtain rfl : body = halfLo (lenField p.length) :: halfHi (lenField p.length) :: (data ++ [y]) := hset ▸ hbody
  obtain ⟨hrun, hc⟩ := execAll_frame hk hu hp (by rw [hlen']; exact Nat.succ_pos _) (hfield.trans hlen'.symm)
    (by rw [hlen', List.length_cons]; omega) hfree
  have hchk : y ≠ (bodyTaken u (halfLo (lenField p.length)) (halfHi (lenField p.length)) data).rx.chk := by
    rw [← rxScript_cfg hu] at hne; exact hne
  exact ⟨_, u.drops, hrun.trans (execRxByte_wrongChecksum rfl hc hchk), (rxScript_quiet hu hp).1, rfl, rfl⟩

end Sys2Proof.Machine
end

section
/-! The Frame Sender (R101, R103, R105): each case of TX.BYTE, the frame transferred whole, and DRAIN (R73), which ends
because every transfer takes one byte from those left. -/

namespace Sys2Proof.Machine

/-! ### TX.START and the cases of TX.BYTE -/

section
variable {s : State}

theorem exec_txStart (c : Byte) {n : Half} (hs : s.tx.state = .idle) (hn : n.toNat ≤ 255) :
    exec (.txStart c n) s = .next { s with tx := loadedTx c n.toNat } := by
  have hbyte : (n.setWidth 8).toNat = n.toNat := by
    rw [BitVec.toNat_setWidth]; exact Nat.mod_eq_of_lt (by omega)
  simp only [exec, execTxStart, loadedTx_of, hbyte]
  exact if_pos ⟨hs, hn⟩

theorem exec_txStart_refused (c : Byte) {n : Half} (h : s.tx.state ≠ .idle ∨ 255 < n.toNat) :
    exec (.txStart c n) s = .refused .txStartNotEnabled :=
  if_neg fun hc => h.elim (fun hs => hs hc.1) fun hn => Nat.not_le.2 hn hc.2

theorem execTxByte_sync {b : Byte} (hs : s.tx.state = .sync) (hb : syncPattern[s.tx.idx.toNat]? = some b) :
    execTxByte s = .next (sent s b (if s.tx.idx = 3 then { s.tx with idx := 0, state := .lenLo }
                                    else { s.tx with idx := s.tx.idx + 1 })) := by
  simp only [execTxByte_eq, hs, hb]

theorem execTxByte_lenLo (hs : s.tx.state = .lenLo) :
    execTxByte s = .next (sent s (halfLo s.tx.len)
      { s.tx with chk := chkLen s.cfg s.tx.chk (halfLo s.tx.len), state := .lenHi }) := by
  simp only [execTxByte_eq, hs]

theorem execTxByte_lenHi (hs : s.tx.state = .lenHi) :
    execTxByte s = .next (sent s (halfHi s.tx.len)
      { s.tx with chk := chkLen s.cfg s.tx.chk (halfHi s.tx.len), state := .cmd }) := by
  simp only [execTxByte_eq, hs]

theorem execTxByte_cmd (hs : s.tx.state = .cmd) :
    execTxByte s = .next (sent s s.tx.cmd
      { s.tx with chk := chkData s.tx.chk s.tx.cmd, idx := 0, state := if s.tx.len = 1 then .chk else .payload }) := by
  simp only [execTxByte_eq, hs]

theorem execTxByte_payload (hs : s.tx.state = .payload) (hidx : s.tx.idx.toNat < 255) :
    execTxByte s = .next (payloadSent s (s.respBuf.respByte s.tx.idx.toNat)) := by
  simp only [execTxByte_eq, hs, if_pos hidx]

theorem execTxByte_chk (hs : s.tx.state = .chk) :
    execTxByte s = .next (sent s s.tx.chk { s.tx with state := .idle }) := by
  simp only [execTxByte_eq, hs]

end

theorem halfLo_eq_ofNat (h : Half) : halfLo h = BitVec.ofNat 8 (h.toNat % 256) := by
  apply BitVec.eq_of_toNat_eq
  rw [halfLo, BitVec.extractLsb'_toNat, BitVec.toNat_ofNat, Nat.shiftRight_zero]
  omega

theorem halfHi_eq_ofNat (h : Half) : halfHi h = BitVec.ofNat 8 (h.toNat / 256) := by
  apply BitVec.eq_of_toNat_eq
  rw [halfHi, BitVec.extractLsb'_toNat, BitVec.toNat_ofNat, Nat.shiftRight_eq_div_pow]

/-! ### The statements about one operation -/

/-- Settles O22. -/
theorem txStartLoadsSender : Obligations.TxStartLoadsSender := fun _ c _ =>
  ⟨fun hs hn => exec_txStart c hs hn, exec_txStart_refused c⟩

/-- Settles O23. -/
theorem txSyncSendsPattern : Obligations.TxSyncSendsPattern := by
  intro s b hs hb
  have h := execTxByte_sync hs hb
  obtain ⟨hrow, -⟩ := execTxCase_eq (s := s)
  exact ⟨h, (hrow hs).trans h⟩

/-- Settles O24: the length bytes as numbers. -/
theorem txHeaderAndChecksumBytes : Obligations.TxHeaderAndChecksumBytes := by
  intro s
  rw [← halfLo_eq_ofNat, ← halfHi_eq_ofNat]
  obtain ⟨-, hlo, hhi, hcmd, -, hchk⟩ := execTxCase_eq (s := s)
  exact ⟨fun hs => ⟨execTxByte_lenLo hs, (hlo hs).trans (execTxByte_lenLo hs)⟩,
    fun hs => ⟨execTxByte_lenHi hs, (hhi hs).trans (execTxByte_lenHi hs)⟩,
    fun hs => ⟨execTxByte_cmd hs, (hcmd hs).trans (execTxByte_cmd hs)⟩,
    fun hs => ⟨execTxByte_chk hs, (hchk hs).trans (execTxByte_chk hs)⟩⟩

/-- Settles O25. -/
theorem txPayloadSendsResponseByte : Obligations.TxPayloadSendsResponseByte := by
  rintro s b hs hidx rfl
  have h := execTxByte_payload hs hidx
  obtain ⟨-, -, -, -, hrow, -⟩ := execTxCase_eq (s := s)
  exact ⟨h, (hrow hs).trans h⟩

/-! ### A frame transferred whole (R105) -/

/-- From the sender's registers `u`, as many TX.BYTE as `bs` has bytes transfer `bs` and lead to the registers `v`,
whatever was transferred before. -/
def Transfers (s : State) (u : TxUnit) (bs : List Byte) (v : TxUnit) : Prop :=
  ∀ os, execAll (List.replicate bs.length .txByte) { s with tx := u, outputs := os } =
    .next { s with tx := v, outputs := os ++ bs.map .tx }

section
variable {s : State} {u v w : TxUnit}

theorem Transfers.append {as bs : List Byte} (ha : Transfers s u as v) (hb : Transfers s v bs w) :
    Transfers s u (as ++ bs) w := fun os => by
  rw [List.length_append, List.replicate_add, execAll_append_of_next (ha os), hb, List.map_append, List.append_assoc]

theorem transfers_of_execTxByte {b : Byte}
    (h : ∀ os, execTxByte { s with tx := u, outputs := os } = .next (sent { s with tx := u, outputs := os } b v)) :
    Transfers s u [b] v := fun os => (execAll_singleton .txByte _).trans (h os)

/-- `TX_SYNC` (R103). -/
theorem transfers_sync (hs : u.state = .sync) (hidx : u.idx = 0) :
    Transfers s u syncPattern { u with idx := 0, state := .lenLo } := by
  have hmore : ∀ {k : Half} {b : Byte}, k ≠ 3 → syncPattern[k.toNat]? = some b →
      Transfers s { u with idx := k } [b] { u with idx := k + 1 } := fun hk hb =>
    transfers_of_execTxByte fun os => (execTxByte_sync hs hb).trans (by rw [if_neg hk])
  have hlast : Transfers s { u with idx := 3 } [0x58] { u with idx := 0, state := .lenLo } :=
    transfers_of_execTxByte fun os => execTxByte_sync hs rfl
  have hstart : u = { u with idx := 0 } := by rw [← hidx]
  have hthree := ((hmore (k := 0) (by decide) rfl).append (hmore (k := 1) (by decide) rfl)).append
    (hmore (k := 2) (by decide) rfl)
  rw [hstart]
  exact hthree.append hlast

theorem transfers_lenLo (hs : u.state = .lenLo) :
    Transfers s u [halfLo u.len] { u with chk := chkLen s.cfg u.chk (halfLo u.len), state := .lenHi } :=
  transfers_of_execTxByte fun _ => execTxByte_lenLo hs

theorem transfers_lenHi (hs : u.state = .lenHi) :
    Transfers s u [halfHi u.len] { u with chk := chkLen s.cfg u.chk (halfHi u.len), state := .cmd } :=
  transfers_of_execTxByte fun _ => execTxByte_lenHi hs

theorem transfers_cmd (hs : u.state = .cmd) :
    Transfers s u [u.cmd]
      { u with chk := chkData u.chk u.cmd, idx := 0, state := if u.len = 1 then .chk else .payload } :=
  transfers_of_execTxByte fun _ => execTxByte_cmd hs

theorem transfers_chk (hs : u.state = .chk) : Transfers s u [u.chk] { u with state := .idle } :=
  transfers_of_execTxByte fun _ => execTxByte_chk hs

/-- The payload bytes still to be sent, by induction on them (R103). -/
theorem transfers_payload {b : Byte} {bs : List Byte} (hs : u.state = .payload)
    (hlen : u.idx.toNat + (b :: bs).length + 1 = u.len.toNat) (hcap : u.len.toNat ≤ 256)
    (hbuf : ∀ j, j < (b :: bs).length → (b :: bs)[j]? = some (s.respBuf.respByte (u.idx.toNat + j))) :
    ∃ v, Transfers s u (b :: bs) v ∧ v.state = .chk ∧ v.chk = u.chk ^^^ xorAll (b :: bs) := by
  induction bs generalizing u b with
  | nil =>
    have hlast : u.idx.toNat + 2 = u.len.toNat := hlen
    have hb : b = s.respBuf.respByte u.idx.toNat := Option.some.inj (hbuf 0 (Nat.succ_pos _))
    refine ⟨{ u with chk := chkData u.chk b, state := .chk }, transfers_of_execTxByte fun os => ?_, rfl, ?_⟩
    · subst hb
      exact (execTxByte_payload hs (show u.idx.toNat < 255 by omega)).trans (by rw [payloadSent, if_pos hlast])
    · rw [xorAll_singleton]; rfl
  | cons b' bs ih =>
    rw [List.length_cons, List.length_cons] at hlen
    have hmore : ¬ u.idx.toNat + 2 = u.len.toNat := by omega
    have hidx : (u.idx + 1).toNat = u.idx.toNat + 1 := half_add_one_toNat (by omega)
    have hb : b = s.respBuf.respByte u.idx.toNat := Option.some.inj (hbuf 0 (Nat.succ_pos _))
    have hfirst : Transfers s u [b] { u with chk := chkData u.chk b, idx := u.idx + 1 } := by
      subst hb
      exact transfers_of_execTxByte fun os =>
        (execTxByte_payload hs (show u.idx.toNat < 255 by omega)).trans (by rw [payloadSent, if_neg hmore])
    obtain ⟨v, hrest, hv, hchk⟩ := ih (u := { u with chk := chkData u.chk b, idx := u.idx + 1 }) (b := b') hs
      (by simp only [hidx, List.length_cons]; omega) hcap fun j hj => by
        have hj' := hbuf (j + 1) (Nat.succ_lt_succ hj)
        rw [List.getElem?_cons_succ] at hj'
        rw [hj', hidx, Nat.add_assoc, Nat.add_comm 1]
    exact ⟨v, hfirst.append hrest, hv, hchk.trans (BitVec.xor_assoc _ _ _)⟩

end

/-- The sender's registers after the sync pattern, the length bytes and the command byte, for a payload of `n` bytes. -/
abbrev headerSent (cfg : Config) (c : Byte) (n : Nat) : TxUnit :=
  { state := if lenField n = 1 then .chk else .payload, idx := 0, len := lenField n, cmd := c,
    chk := chkLen cfg (chkLen cfg 0 (halfLo (lenField n))) (halfHi (lenField n)) ^^^ c }

theorem transfers_header (s : State) (c : Byte) (n : Nat) :
    Transfers s (loadedTx c n) (syncPattern ++ [halfLo (lenField n)] ++ [halfHi (lenField n)] ++ [c])
      (headerSent s.cfg c n) :=
  (((transfers_sync rfl rfl).append (transfers_lenLo rfl)).append (transfers_lenHi rfl)).append (transfers_cmd rfl)

/-- The header and the payload, up to the checksum byte, with the checksum of R63 accumulated. -/
theorem transfers_header_payload (s : State) (c : Byte) {p : List Byte} (hp : p.length ≤ 255)
    (hbuf : ∀ i, i < p.length → p[i]? = some (s.respBuf.respByte i)) :
    ∃ v, Transfers s (loadedTx c p.length)
        (syncPattern ++ [halfLo (lenField p.length)] ++ [halfHi (lenField p.length)] ++ [c] ++ p) v ∧
      v.state = .chk ∧ v.chk = frameChecksum s.cfg c p := by
  have hhead := transfers_header s c p.length
  rw [frameChecksum_eq_accumulated, accumulated]
  cases p with
  | nil =>
    rw [List.append_nil]
    exact ⟨_, hhead, rfl, by rw [xorAll_singleton]⟩
  | cons b bs =>
    have hlen : (lenField (b :: bs).length).toNat = bs.length + 2 := by
      rw [List.length_cons] at hp ⊢
      rw [lenField, BitVec.toNat_ofNat]; exact Nat.mod_eq_of_lt (by omega)
    have hpay : lenField (b :: bs).length ≠ 1 := fun h1 => by rw [h1] at hlen; simp at hlen
    have hzero : (0 : Half).toNat = 0 := rfl
    rw [List.length_cons] at hp
    obtain ⟨v, hv, hstate, hchk⟩ := transfers_payload (s := s) (u := headerSent s.cfg c (b :: bs).length) (b := b)
      (bs := bs) (if_neg hpay) (by simp only [List.length_cons] at hlen ⊢; omega) (by simp only [hlen]; omega)
      (by intro j hj; simp only [hzero, Nat.zero_add]; exact hbuf j hj)
    exact ⟨v, hhead.append hv, hstate, hchk.trans (BitVec.xor_assoc _ _ _)⟩

theorem transfers_frame (s : State) (c : Byte) {p : List Byte} (hp : p.length ≤ 255)
    (hbuf : ∀ i, i < p.length → p[i]? = some (s.respBuf.respByte i)) :
    ∃ v, Transfers s (loadedTx c p.length) (wireEncode s.cfg c p) v ∧ v.state = .idle := by
  obtain ⟨v, hv, hstate, hchk⟩ := transfers_header_payload s c hp hbuf
  have hbytes : syncPattern ++ [halfLo (lenField p.length)] ++ [halfHi (lenField p.length)] ++ [c] ++ p ++ [v.chk] =
      wireEncode s.cfg c p := by
    rw [hchk]
    simp only [wireEncode, frameBody, List.append_assoc, List.cons_append, List.nil_append]
  exact ⟨{ v with state := .idle }, hbytes ▸ hv.append (transfers_chk hstate), rfl⟩

/-- Settles O26. -/
theorem senderTransmitsEncodedFrame : Obligations.SenderTransmitsEncodedFrame := by
  intro s c p hs hp hbuf
  have hn : (BitVec.ofNat 16 p.length).toNat = p.length := by
    rw [BitVec.toNat_ofNat]; exact Nat.mod_eq_of_lt (by omega)
  obtain ⟨v, hv, hidle⟩ := transfers_frame s c hp hbuf
  have hcount : (wireEncode s.cfg c p).length = p.length + 8 := by
    simp only [wireEncode, frameBody, syncPattern, List.length_append, List.length_cons, List.length_nil]; omega
  have hstart := exec_txStart (s := s) c (n := BitVec.ofNat 16 p.length) hs (by omega)
  rw [hn] at hstart
  refine ⟨{ s with tx := v, outputs := s.outputs ++ (wireEncode s.cfg c p).map .tx }, ?_, hidle, rfl⟩
  rw [execAll_cons_of_next hstart, ← hcount]
  exact hv s.outputs

end Sys2Proof.Machine
end

section
/-! The formats as scripts (R73): what each abbreviation expands to, and DRAIN, which ends because every transfer takes
one byte from those left. -/

namespace Sys2Proof.Machine

/-! ### DRAIN -/

section
variable {s t : State}

/-- Nothing is left to send exactly when the sender is idle. -/
theorem bytesLeft_eq_zero_iff {u : TxUnit} : u.bytesLeft = 0 ↔ u.state = .idle := by
  unfold TxUnit.bytesLeft
  cases u.state <;> simp

/-- Every transfer takes one byte from those left. -/
theorem State.Inv.bytesLeft_succ (h : s.Inv) (hs : s.tx.state ≠ .idle) (hx : execTxByte s = .next t) :
    t.tx.bytesLeft + 1 = s.tx.bytesLeft := by
  obtain ⟨hlen, hmax⟩ := h.txLen hs
  obtain ⟨hidle, -⟩ | ⟨b, hs, -, rfl⟩ | ⟨hs, rfl⟩ | ⟨hs, rfl⟩ | ⟨hs, rfl⟩ | ⟨hs, -, rfl⟩ | ⟨hs, rfl⟩ := execTxByte_next hx
  · exact absurd hidle hs
  · have hidx := h.txSync hs
    by_cases hlast : s.tx.idx = 3
    · simp [TxUnit.bytesLeft, hs, hlast]; omega
    · have hne : s.tx.idx.toNat ≠ 3 := fun h3 => hlast (BitVec.eq_of_toNat_eq h3)
      rw [if_neg hlast]
      simp only [TxUnit.bytesLeft, hs, half_add_one_toNat (show s.tx.idx.toNat < 65535 by omega)]
      omega
  · simp only [TxUnit.bytesLeft, hs]; omega
  · simp only [TxUnit.bytesLeft, hs]; omega
  · by_cases hone : s.tx.len = 1
    · simp [TxUnit.bytesLeft, hs, hone]
    · rw [if_neg hone]
      simp only [TxUnit.bytesLeft, hs, show (0 : Half).toNat = 0 from rfl]
      omega
  · have hidx := h.txPayload hs
    by_cases hlast : s.tx.idx.toNat + 2 = s.tx.len.toNat
    · rw [payloadSent, if_pos hlast]
      simp only [TxUnit.bytesLeft, hs]
      omega
    · rw [payloadSent, if_neg hlast]
      simp only [TxUnit.bytesLeft, hs, half_add_one_toNat (show s.tx.idx.toNat < 65535 by omega)]
      omega
  · simp only [TxUnit.bytesLeft, hs]

theorem State.Inv.execTxByte_completes (h : s.Inv) : ∃ t, execTxByte s = .next t ∧ t.Inv := by
  cases hx : execTxByte s with
  | next t => exact ⟨t, rfl, h.after_txByte hx⟩
  | fault f => exact absurd hx (h.txByte_noFault f)
  | refused x => exact absurd hx execTxByte_not_refused

/-- `k` transfers take `k` bytes from those left, as many as there are. -/
theorem State.Inv.execAll_txByte (h : s.Inv) (k : Nat) :
    ∃ t, execAll (List.replicate k .txByte) s = .next t ∧ t.tx.bytesLeft = s.tx.bytesLeft - k := by
  induction k generalizing s with
  | zero => exact ⟨s, rfl, rfl⟩
  | succ k ih =>
    obtain ⟨m, hm, hinv⟩ := h.execTxByte_completes
    obtain ⟨t, ht, hleft⟩ := ih hinv
    refine ⟨t, (execAll_cons_of_next (i := .txByte) hm _).trans ht, hleft.trans ?_⟩
    by_cases hs : s.tx.state = .idle
    · rw [execTxByte_of_idle hs] at hm
      obtain rfl := next_inj.1 hm
      rw [bytesLeft_eq_zero_iff.2 hs, Nat.zero_sub, Nat.zero_sub]
    · have hone := h.bytesLeft_succ hs hm
      omega

/-- R73 `DRAIN`: the sender is idle at the end of the script and not before. -/
theorem State.Inv.drains (h : s.Inv) :
    ∃ t, execAll (drainScript s.tx) s = .next t ∧ t.tx.state = .idle ∧
      ∀ k u, k < s.tx.bytesLeft → execAll (List.replicate k .txByte) s = .next u → u.tx.state ≠ .idle := by
  obtain ⟨t, ht, hleft⟩ := h.execAll_txByte s.tx.bytesLeft
  refine ⟨t, ht, bytesLeft_eq_zero_iff.1 (hleft.trans (Nat.sub_self _)), fun k u hk hu hidle => ?_⟩
  obtain ⟨v, hv, hmore⟩ := h.execAll_txByte k
  obtain rfl := next_inj.1 (hv.symm.trans hu)
  have hnone := bytesLeft_eq_zero_iff.2 hidle
  omega

end

/-! ### The IR word as a timed frame (R64) -/

/-- The spaces of the `n` low bits of a word, from bit `n - 1` down. -/
def bitSpaces (cfg : Config) (w : Word) (n : Nat) : List Nat :=
  (List.range n).map fun k => if w.getLsbD (n - 1 - k) = true then cfg.tOneSpace else cfg.tZeroSpace

theorem bitSpaces_succ (cfg : Config) (w : Word) (n : Nat) :
    bitSpaces cfg w (n + 1) = (if w.getLsbD n = true then cfg.tOneSpace else cfg.tZeroSpace) :: bitSpaces cfg w n := by
  rw [bitSpaces, List.range_succ_eq_map, List.map_cons, List.map_map, bitSpaces]
  refine congrArg _ (List.map_congr_left fun k hk => ?_)
  have hindex : n + 1 - 1 - (k + 1) = n - 1 - k := by omega
  rw [Function.comp_apply, Nat.succ_eq_add_one, hindex]

/-- The data bits of a word, in the words of R73, are the timed bits with nominal durations. -/
theorem wordScript_eq_timedBits (cfg : Config) (w : Word) (n : Nat) :
    wordScript cfg w n = timedBits (List.replicate n cfg.tBitMark) (bitSpaces cfg w n) := by
  induction n with
  | zero => rfl
  | succ n ih => rw [wordScript, bitScript, List.replicate_succ, bitSpaces_succ, timedBits, ih]

theorem irWordScript_eq_timedFrame (cfg : Config) (w : Word) :
    irWordScript cfg w = timedFrame cfg.tLeadMark cfg.tLeadSpace (List.replicate 32 cfg.tBitMark) (bitSpaces cfg w 32)
      cfg.tBitMark ++ [.irEdge .space] := by
  rw [irWordScript, timedFrame, wordScript_eq_timedBits]

/-- Settles O50. -/
theorem formatsExpandToEvents : Obligations.FormatsExpandToEvents := by
  intro s c p w d
  refine ⟨fun hp => if_pos hp, fun hp => if_neg (Nat.not_le.2 hp), ?_, rfl, fun h => ?_⟩
  · exact congrArg (fun is => Host.Outcome.next (s.prepend is)) (irWordScript_eq_timedFrame s.cfg w)
  · obtain ⟨t, ht, hidle, hshort⟩ := h.drains
    exact ⟨s.tx.bytesLeft, t, rfl, ht, hidle, hshort⟩

end Sys2Proof.Machine
end

section
/-! The IR Decoder over a whole frame (R137, R138): the phase table, and a frame with every duration in its window, bit by
bit. -/

namespace Sys2Proof.Machine

/-! ### The phase table -/

section
variable {s : State}

theorem edgeState_phase_leadMark (hp : s.ir.phase = .leadMark) :
    (edgeState s .space).ir.phase = if InWindow s.tick.cnt s.cfg.tLeadMark then .leadSpace else .idle := by
  rw [edgeState_leadMark hp]
  by_cases hwin : InWindow s.tick.cnt s.cfg.tLeadMark
  · rw [if_pos ⟨rfl, hwin⟩, if_pos hwin]
  · rw [if_neg fun h => hwin h.2, if_neg hwin]

theorem edgeState_phase_leadSpace (hp : s.ir.phase = .leadSpace) :
    (edgeState s .mark).ir.phase = if InWindow s.tick.cnt s.cfg.tLeadSpace then .bitMark else .idle := by
  rw [edgeState_leadSpace hp]
  by_cases hwin : InWindow s.tick.cnt s.cfg.tLeadSpace
  · rw [if_pos ⟨rfl, hwin⟩, if_pos hwin]
  · rw [if_neg fun h => hwin h.2, if_neg hwin]
    split
    · split <;> rfl
    · rfl

theorem edgeState_phase_bitMark (hp : s.ir.phase = .bitMark) :
    (edgeState s .space).ir.phase =
      if InWindow s.tick.cnt s.cfg.tBitMark ∧ s.ir.lastMark = false then .bitSpace else .idle := by
  by_cases hwin : InWindow s.tick.cnt s.cfg.tBitMark
  · cases hlast : s.ir.lastMark
    · rw [edgeState_bitMark_continues hp hwin hlast, if_pos ⟨hwin, rfl⟩]
    · rw [if_neg fun h => Bool.noConfusion h.2, edgeState_finish hp hwin hlast]
      split <;> rfl
  · have hrule : edgeState s .space = attemptDropped s .space .irTiming := by
      unfold edgeState
      rw [hp]
      exact if_neg fun h => hwin h.2
    rw [hrule, if_neg fun h => hwin h.1]

theorem edgeState_phase_bitSpace (hp : s.ir.phase = .bitSpace) :
    (edgeState s .mark).ir.phase =
      if InWindow s.tick.cnt s.cfg.tZeroSpace ∨ InWindow s.tick.cnt s.cfg.tOneSpace then .bitMark else .idle := by
  rw [edgeState_bitSpace hp]
  by_cases hwin : InWindow s.tick.cnt s.cfg.tZeroSpace ∨ InWindow s.tick.cnt s.cfg.tOneSpace
  · rw [if_pos ⟨rfl, hwin⟩, if_pos hwin]
  · rw [if_neg fun h => hwin h.2, if_neg hwin]

end

/-- The phase an enabled edge leads to (R137): an edge of the wrong direction aborts, one of the right direction is
judged by its duration. -/
theorem edgeState_phase (s : State) (l : Level) : (edgeState s l).ir.phase = irTable s l s.tick.cnt := by
  cases hp : s.ir.phase <;> cases l
  case leadMark.space => simp only [irTable, hp]; exact edgeState_phase_leadMark hp
  case leadSpace.mark => simp only [irTable, hp]; exact edgeState_phase_leadSpace hp
  case bitMark.space => simp only [irTable, hp]; exact edgeState_phase_bitMark hp
  case bitSpace.mark => simp only [irTable, hp]; exact edgeState_phase_bitSpace hp
  all_goals simp [edgeState, irTable, hp]

/-- Settles O36. -/
theorem decoderTransitionTable : Obligations.DecoderTransitionTable := fun s l hl =>
  ⟨edgeState s l, execIrEdge_of_enabled hl, edgeState_phase s l⟩

/-! ### An edge and the ticks after it -/

/-- The state inside an interval: the decoder's registers and `d` ticks counted since the edge. -/
abbrev timing (s : State) (u : IrUnit) (d : Nat) : State := { s with ir := u, tick := { en := true, cnt := d } }

section
variable {s : State} {u : IrUnit}

theorem execAll_ticks {j k : Nat} (h : j + k ≤ tickMax s.cfg) :
    execAll (ticksScript k) (timing s u j) = .next (timing s u (j + k)) := by
  induction k generalizing j with
  | zero => rfl
  | succ k ih =>
    have hcounts : (timing s u j).tick.Counts (timing s u j).cfg := ⟨rfl, by simp only; omega⟩
    have hrest := ih (j := j + 1) (by omega)
    rw [Nat.add_right_comm] at hrest
    exact (execAll_cons_of_next (exec_tickPulse_of_counts hcounts) _).trans hrest

/-- `MARK d` and `SPACE d` of R73: the edge, then `d` ticks counted. -/
theorem execAll_interval {x : State} {l : Level} {d : Nat} (hl : l ≠ x.ir.level) (hx : edgeState x l = timing s u 0)
    (hd : d ≤ tickMax s.cfg) : execAll (.irEdge l :: ticksScript d) x = .next (timing s u d) := by
  have hedge : exec (.irEdge l) x = .next (timing s u 0) := hx ▸ execIrEdge_of_enabled hl
  rw [execAll_cons_of_next hedge, execAll_ticks (by omega), Nat.zero_add]

/-- A duration in a legal window does not saturate the counter (R5). -/
theorem le_tickMax_of_inWindow {cfg : Config} {d x : Nat} (hlegal : DurationLegal cfg.tickW x) (hd : InWindow d x) :
    d ≤ tickMax cfg := by
  have hhi : winHi x < 2 ^ cfg.tickW - 1 := hlegal.2
  have hle : d ≤ winHi x := hd.2
  unfold tickMax
  omega

theorem not_inWindow_of_disjoint {d x y : Nat} (h : WindowsDisjoint x y) (hy : InWindow d y) : ¬ InWindow d x := by
  intro hx
  have hxlo : winLo x ≤ d := hx.1
  have hxhi : d ≤ winHi x := hx.2
  have hylo : winLo y ≤ d := hy.1
  have hyhi : d ≤ winHi y := hy.2
  omega

/-! ### The data bits -/

/-- The registers during bit mark `i`, with the word `w` so far. -/
abbrev markRegs (u : IrUnit) (i : Nat) (w : Word) : IrUnit :=
  { u with level := .mark, phase := .bitMark, bitIdx := BitVec.ofNat 6 i, word := w, lastMark := decide (i = 32) }

/-- The registers during the space of bit `i`. -/
abbrev spaceRegs (u : IrUnit) (i : Nat) (w : Word) : IrUnit :=
  { u with level := .space, phase := .bitSpace, bitIdx := BitVec.ofNat 6 i, word := w, lastMark := false }

/-- The next edge to MARK begins bit mark `i`. -/
def BeforeMark (s x : State) (i : Nat) (w : Word) : Prop :=
  x.ir.level = .space ∧ edgeState x .mark = timing s (markRegs s.ir i w) 0

theorem BeforeMark.execAll_mark {x : State} {i d : Nat} {w : Word} (h : BeforeMark s x i w) (hd : d ≤ tickMax s.cfg) :
    execAll (markScript d) x = .next (timing s (markRegs s.ir i w) d) :=
  execAll_interval (by rw [h.1]; simp) h.2 hd

/-- A good bit mark that is not the final one is followed by its space (R132). -/
theorem edgeState_of_markRegs {i m : Nat} {w : Word} (hi : i < 32) (hm : InWindow m s.cfg.tBitMark) :
    edgeState (timing s (markRegs s.ir i w) m) .space = timing s (spaceRegs s.ir i w) 0 := by
  have hlast : decide (i = 32) = false := decide_eq_false (by omega)
  rw [edgeState_bitMark_continues rfl hm hlast, toPhase]
  simp only [hlast]

/-- The space of a bit shifts the bit in (R131); the windows of a zero and a one are disjoint (R5, R126). -/
theorem beforeMark_of_spaceRegs {i d : Nat} {w : Word} {v : Bool} (hi : i < 32)
    (hdisj : WindowsDisjoint s.cfg.tZeroSpace s.cfg.tOneSpace)
    (hd : InWindow d (if v = true then s.cfg.tOneSpace else s.cfg.tZeroSpace)) :
    BeforeMark s (timing s (spaceRegs s.ir i w) d) (i + 1) (shiftInBit w v) := by
  have hbit : (!decide (InWindow d s.cfg.tZeroSpace)) = v ∧
      (InWindow d s.cfg.tZeroSpace ∨ InWindow d s.cfg.tOneSpace) := by
    cases v
    · have hzero : InWindow d s.cfg.tZeroSpace := hd
      exact ⟨by rw [decide_eq_true hzero]; rfl, .inl hzero⟩
    · have hone : InWindow d s.cfg.tOneSpace := hd
      exact ⟨by rw [decide_eq_false (not_inWindow_of_disjoint hdisj hone)]; rfl, .inr hone⟩
  obtain ⟨hv, hwin⟩ := hbit
  have hidx : (BitVec.ofNat 6 i).toNat = i := by
    rw [BitVec.toNat_ofNat]; exact Nat.mod_eq_of_lt (by omega)
  have hnext : BitVec.ofNat 6 i + 1 = BitVec.ofNat 6 (i + 1) := by
    apply BitVec.eq_of_toNat_eq
    rw [BitVec.toNat_add, hidx, BitVec.toNat_ofNat]
    rfl
  refine ⟨rfl, ?_⟩
  rw [edgeState_bitSpace rfl, if_pos ⟨rfl, hwin⟩, bitTaken]
  simp only [hv, hidx, hnext]
  by_cases hlast : i + 1 = 32 <;> simp [hlast]

/-- The bits of a word enter from the top: one more of them (R42, R131). -/
theorem shiftInBit_ushiftRight (w : Word) (n : Nat) : shiftInBit (w >>> (n + 1)) (w.getLsbD n) = w >>> n := by
  apply BitVec.eq_of_toNat_eq
  rw [shiftInBit_eq_ofNat, BitVec.toNat_ofNat, BitVec.toNat_ushiftRight, BitVec.toNat_ushiftRight,
    Nat.shiftRight_eq_div_pow, Nat.shiftRight_eq_div_pow, BitVec.getLsbD, Nat.testBit_eq_decide_div_mod_eq, Nat.pow_succ,
    ← Nat.div_div_eq_div_mul]
  have hlt : w.toNat / 2 ^ n < 2 ^ 32 := Nat.lt_of_le_of_lt (Nat.div_le_self _ _) w.isLt
  by_cases hodd : w.toNat / 2 ^ n % 2 = 1
  · simp only [hodd, decide_true, Bool.toNat_true]; omega
  · simp only [hodd, decide_false, Bool.toNat_false]; omega

/-- The last `n` bits of the word, every duration in its window, by induction on `n`. -/
theorem execAll_timedBits {w : Word} {n : Nat} {marks spaces : List Nat} {x : State} (hlegal : ConfigLegal s.cfg)
    (hn : n ≤ 32) (hx : BeforeMark s x (32 - n) (w >>> n)) (hmarks : marks.length = n) (hspaces : spaces.length = n)
    (hm : ∀ m ∈ marks, InWindow m s.cfg.tBitMark)
    (hd : ∀ k d, spaces[k]? = some d →
      InWindow d (if w.getLsbD (n - 1 - k) = true then s.cfg.tOneSpace else s.cfg.tZeroSpace)) :
    ∃ y, execAll (timedBits marks spaces) x = .next y ∧ BeforeMark s y 32 w := by
  obtain ⟨-, -, -, -, -, -, hmarkLegal, hzeroLegal, honeLegal, -, hdisj⟩ := hlegal
  induction n generalizing x marks spaces with
  | zero =>
    rw [List.length_eq_zero_iff] at hmarks hspaces
    subst hmarks hspaces
    exact ⟨x, rfl, hx⟩
  | succ n ih =>
    obtain ⟨m, marks, rfl⟩ := List.exists_cons_of_length_eq_add_one hmarks
    obtain ⟨d, spaces, rfl⟩ := List.exists_cons_of_length_eq_add_one hspaces
    have hmwin := hm m List.mem_cons_self
    have hdwin := hd 0 d rfl
    rw [Nat.add_sub_cancel, Nat.sub_zero] at hdwin
    have hdmax : d ≤ tickMax s.cfg := by
      split at hdwin
      · exact le_tickMax_of_inWindow honeLegal hdwin
      · exact le_tickMax_of_inWindow hzeroLegal hdwin
    have hmark := hx.execAll_mark (le_tickMax_of_inWindow hmarkLegal hmwin)
    have hspace : execAll (spaceScript d) (timing s (markRegs s.ir (32 - (n + 1)) (w >>> (n + 1))) m) =
        .next (timing s (spaceRegs s.ir (32 - (n + 1)) (w >>> (n + 1))) d) :=
      execAll_interval (by simp) (edgeState_of_markRegs (by omega) hmwin) hdmax
    have hnext := beforeMark_of_spaceRegs (i := 32 - (n + 1)) (w := w >>> (n + 1)) (by omega) hdisj hdwin
    rw [shiftInBit_ushiftRight, show 32 - (n + 1) + 1 = 32 - n by omega] at hnext
    obtain ⟨y, hy, hbefore⟩ := ih (by omega) hnext (Nat.succ.inj hmarks) (Nat.succ.inj hspaces)
      (fun m' hm' => hm m' (List.mem_cons_of_mem _ hm')) fun k d' hk => by
        have hk' := hd (k + 1) d' hk
        rwa [show n + 1 - 1 - (k + 1) = n - 1 - k by omega] at hk'
    refine ⟨y, ?_, hbefore⟩
    rw [timedBits, execAll_append_of_next (execAll_append_of_next hmark _ |>.trans hspace)]
    exact hy

/-- The registers during the leading mark (R128). -/
abbrev leadRegs (u : IrUnit) : IrUnit :=
  { u with level := .mark, phase := .leadMark, bitIdx := 0, word := 0, lastMark := false }

/-- The leader (R128, R129): the next edge to MARK begins the first bit. -/
theorem execAll_leader {dLead dSpace : Nat} (hlegal : ConfigLegal s.cfg) (hp : s.ir.phase = .idle)
    (hl : s.ir.level = .space) (hlead : InWindow dLead s.cfg.tLeadMark) (hspace : InWindow dSpace s.cfg.tLeadSpace) :
    ∃ x, execAll (markScript dLead ++ spaceScript dSpace) s = .next x ∧ BeforeMark s x 0 0 := by
  obtain ⟨-, -, -, hleadLegal, hspaceLegal, -⟩ := hlegal
  have hmark : execAll (markScript dLead) s = .next (timing s (leadRegs s.ir) dLead) :=
    execAll_interval (by rw [hl]; simp) (edgeState_idle_mark hp) (le_tickMax_of_inWindow hleadLegal hlead)
  have hafter := edgeState_leadMark (l := .space) (s := timing s (leadRegs s.ir) dLead) rfl
  rw [if_pos ⟨rfl, hlead⟩] at hafter
  refine ⟨_, (execAll_append_of_next hmark _).trans
    (execAll_interval (by simp) hafter (le_tickMax_of_inWindow hspaceLegal hspace)), rfl, ?_⟩
  rw [edgeState_leadSpace rfl, if_pos ⟨rfl, hspace⟩]
  rfl

end

/-- Settles O37: the leader, the 32 bits, the final mark, and the finish of R133 at the closing edge. -/
theorem irFrameRaisesOneEvent : Obligations.IrFrameRaisesOneEvent := by
  intro s w a na c nc dLead dSpace dFinal marks spaces hlegal hp hl hw hlead hspace hfinal hmarks hspaces hm hd
  have hmarkLegal : DurationLegal s.cfg.tickW s.cfg.tBitMark := by
    obtain ⟨-, -, -, -, -, -, hmarkLegal, -⟩ := hlegal
    exact hmarkLegal
  have hempty : w >>> 32 = 0 := by
    apply BitVec.eq_of_toNat_eq
    rw [BitVec.toNat_ushiftRight, Nat.shiftRight_eq_div_pow, Nat.div_eq_of_lt w.isLt]
    rfl
  obtain ⟨x, hleader, hx⟩ := execAll_leader hlegal hp hl hlead hspace
  obtain ⟨y, hbits, hy⟩ := execAll_timedBits (w := w) hlegal (le_refl 32) (hempty ▸ hx) hmarks hspaces hm hd
  have hrun := hy.execAll_mark (le_tickMax_of_inWindow hmarkLegal hfinal)
  obtain ⟨ha, hna, hc, hnc⟩ := wordByte_of_digits hw
  have hmatch : complementsMatch w = true ↔ na = 0xFF - a ∧ nc = 0xFF - c := by
    rw [complementsMatch_iff, ha, hna, hc, hnc]
  refine ⟨timing s (markRegs s.ir 32 w) dFinal, _, ?_, rfl, execIrEdge_of_enabled (by simp), ?_⟩
  · rw [timedFrame, execAll_append_of_next ((execAll_append_of_next hleader _).trans hbits)]
    exact hrun
  · rw [edgeState_finish rfl hfinal rfl, if_congr hmatch rfl rfl, frameAccepted, irAddrOf, irCmdOf, ha, hc]

end Sys2Proof.Machine
end

section
/-! The Command Dispatcher on a request (R150 to R160): a command's row and the poll follow the same rule of the command,
and the rules read the payload as `PayloadIs` gives it. -/

namespace Sys2Proof.Machine

/-! ### The rules of the commands and their rows -/

/-- The rule of a request (R153 to R158), with the draw of a bus read. -/
def commandRule (r : List Byte) (c : DispColumns) : Request → Answer DispColumns
  | .nop => c.nop
  | .displayFlush => c.displayFlush
  | .displayPower => c.displayPower
  | .displayBrightness => c.displayBrightness
  | .busWrite => c.busWrite
  | .busRead => c.busRead r

/-- The row of the opcode table that names a request. -/
def commandRow (r : List Byte) : Request → Instr
  | .nop => .nop
  | .displayFlush => .displayFlush
  | .displayPower => .displayPower
  | .displayBrightness => .displayBrightness
  | .busWrite => .busWrite
  | .busRead => .busRead r

theorem exec_commandRow (r : List Byte) (q : Request) (s : State) :
    exec (commandRow r q) s =
      s.runDisp fun c => whenSelected (c.packetSelected (some q)) (commandRule r c q) := by
  cases q <;> rfl

theorem decodeRequest_code (q : Request) : decodeRequest q.code = some q := by cases q <;> rfl

section
variable {s : State} {q : Request} {r : List Byte}

/-- A waiting request selects its row. -/
theorem packetSelected_of_waits (h : PacketWaits s q.code) : s.dispColumns.packetSelected (some q) = true := by
  obtain ⟨hidle, hpending, hcmd⟩ := h
  exact packetSelected_iff.2 ⟨hidle, hpending, (congrArg decodeRequest hcmd).trans (decodeRequest_code q)⟩

/-- The poll of a waiting request follows the request's rule. -/
theorem poll_of_waits (h : PacketWaits s q.code) (r : List Byte) :
    s.dispColumns.poll r = commandRule r s.dispColumns q := by
  rw [poll_of_selected r (packetSelected_of_waits h)]
  cases q <;> rfl

/-- What the rule answers, the poll and the row answer. -/
theorem bothAnswer_commandRow {c : DispColumns} {t : State} (h : PacketWaits s q.code)
    (hrule : commandRule r s.dispColumns q = .next c) (ht : s.putDisp c = t) :
    BothAnswer (.dispPoll r) (commandRow r q) s t :=
  ht ▸ ⟨runDisp_next.2 ⟨c, (poll_of_waits h r).trans hrule, rfl⟩,
    (exec_commandRow r q s).trans (runDisp_next.2 ⟨c, whenSelected_next.2 ⟨packetSelected_of_waits h, hrule⟩, rfl⟩)⟩

theorem runDisp_refused {f : DispColumns → Answer DispColumns} {x : Refusal} (h : f s.dispColumns = .refused x) :
    s.runDisp f = .refused x := by
  rw [State.runDisp, h]
  rfl

/-- What the rule refuses, the poll and the row refuse. -/
theorem bothRefused_commandRow {x : Refusal} (h : PacketWaits s q.code)
    (hrule : commandRule r s.dispColumns q = .refused x) :
    exec (.dispPoll r) s = .refused x ∧ exec (commandRow r q) s = .refused x := by
  have hrow : whenSelected (s.dispColumns.packetSelected (some q)) (commandRule r s.dispColumns q) = .refused x := by
    rw [packetSelected_of_waits h, whenSelected_true, hrule]
  exact ⟨runDisp_refused (f := (·.poll r)) ((poll_of_waits h r).trans hrule),
    (exec_commandRow r q s).trans (runDisp_refused hrow)⟩

/-! ### Each rule on the payload it is given -/

theorem payloadReaches_of {p : List Byte} (h : PayloadIs s p) (hleast : leastPayload q ≤ p.length) :
    s.dispColumns.payloadReaches q = true := payloadReaches_iff.2 (le_of_le_of_eq hleast h.1.symm)

/-- R160: short of the least count, every request's rule answers so. -/
theorem commandRule_short {c : DispColumns} (h : c.pkt.len.toNat < leastPayload q) :
    commandRule r c q = .next (c.answerShort q) := by
  have hshort : ¬ c.payloadReaches q = true := fun hreach => Nat.not_le.2 h (payloadReaches_iff.1 hreach)
  cases q
  case nop => exact absurd h (Nat.not_lt_zero _)
  all_goals exact if_neg hshort

theorem displayFlush_of {p : List Byte} (h : PayloadIs s p) (hlen : 1024 ≤ p.length) :
    s.dispColumns.displayFlush = .next (s.dispColumns.answerCall .displayFlush (.flush (p.take 1024))) := by
  rw [DispColumns.displayFlush, if_pos (payloadReaches_of (q := .displayFlush) h hlen), payloadBytes_of h (by omega)]
  rfl

theorem displayPower_of {p : List Byte} {v : Byte} (h : PayloadIs s (v :: p)) :
    s.dispColumns.displayPower =
      .next (s.dispColumns.answerCall .displayPower (if v = 0 then .powerOff else .powerOn)) := by
  rw [DispColumns.displayPower, if_pos (payloadReaches_of (q := .displayPower) h (Nat.succ_pos _)), payloadByte_of h rfl]
  simp only [ite_not]

theorem displayBrightness_of {p : List Byte} {v : Byte} (h : PayloadIs s (v :: p)) :
    s.dispColumns.displayBrightness = .next (s.dispColumns.answerCall .displayBrightness (.setBrightness v)) := by
  rw [DispColumns.displayBrightness, if_pos (payloadReaches_of (q := .displayBrightness) h (Nat.succ_pos _)), payloadByte_of h rfl]

/-- The data of a bus write are all payload bytes behind the address (R157). -/
theorem busWrite_of {data : List Byte} {addr : Byte} (h : PayloadIs s (addr :: data)) :
    s.dispColumns.busWrite = .next (s.dispColumns.answerCall .busWrite (.busWrite addr data)) := by
  have hlen : s.dispColumns.pkt.len.toNat - 1 = data.length := congrArg (· - 1) h.1
  have hdata := payloadBytes_of h (i := 1) (n := data.length) (by rw [List.length_cons]; omega)
  rw [List.drop_one, List.tail_cons, List.take_length] at hdata
  rw [DispColumns.busWrite, if_pos (payloadReaches_of (q := .busWrite) h (Nat.succ_pos _)), payloadByte_of h rfl, hlen]
  simp only [hdata]

/-- R158, by the length of the draw (U5). -/
theorem busRead_of {p : List Byte} {addr count : Byte} (h : PayloadIs s (addr :: count :: p)) :
    s.dispColumns.busRead r = if r.length < count.toNat then .refused .busReadShort
      else .next ((s.dispColumns.makeCall (.busRead addr count)).answer Request.busRead.code (r.take count.toNat)) := by
  rw [DispColumns.busRead, if_pos (payloadReaches_of (q := .busRead) h (by simp [leastPayload])), payloadByte_of h rfl]
  simp only [payloadByte_of h (i := 1) rfl]

end

/-! ### The statements about requests -/

/-- Settles O38. -/
theorem nopIsAnswered : Obligations.NopIsAnswered := fun s _ hw =>
  bothAnswer_commandRow (q := .nop) hw rfl (putDisp_nop s .nop)

/-- Settles O39. -/
theorem flushPassesFramebuffer : Obligations.FlushPassesFramebuffer := fun s _ _ hw hp hlen =>
  bothAnswer_commandRow (q := .displayFlush) hw (displayFlush_of hp hlen) (putDisp_answerCall s .displayFlush _)

/-- Settles O40. -/
theorem powerCallsOnOrOff : Obligations.PowerCallsOnOrOff := fun s _ _ _ hw hp =>
  bothAnswer_commandRow (q := .displayPower) hw (displayPower_of hp) (putDisp_answerCall s .displayPower _)

/-- Settles O41. -/
theorem brightnessPassesLevel : Obligations.BrightnessPassesLevel := fun s _ _ _ hw hp =>
  bothAnswer_commandRow (q := .displayBrightness) hw (displayBrightness_of hp) (putDisp_answerCall s .displayBrightness _)

/-- Settles O42. -/
theorem busWritePassesData : Obligations.BusWritePassesData := fun s _ _ _ hw hp =>
  bothAnswer_commandRow (q := .busWrite) hw (busWrite_of hp) (putDisp_answerCall s .busWrite _)

/-- RESPBUF after a bus read was answered (R158). -/
theorem busReadAnswered_respBuf_read (s : State) (addr count : Byte) {r : List Byte} (hr : count.toNat ≤ r.length) (i : Nat) :
    (busReadAnswered s addr count (r.take count.toNat)).respBuf.read i =
      if i < count.toNat then r[i]? else s.respBuf.read i := by
  have hbounds : (0 ≤ i ∧ i < 0 + (r.take count.toNat).length) ↔ i < count.toNat := by
    rw [List.length_take_of_le hr]; omega
  rw [Memory.read_writeAll, if_congr hbounds rfl rfl, Nat.sub_zero]
  refine if_ctx_congr Iff.rfl (fun hi => ?_) fun _ => rfl
  rw [List.getElem?_take, if_pos hi]

/-- Settles O43. -/
theorem busReadReturnsDraw : Obligations.BusReadReturnsDraw := by
  intro s r p addr count hw hp
  have hrule := busRead_of (r := r) hp
  refine ⟨fun hr => ?_, fun hr => ?_⟩
  · rw [if_neg (Nat.not_lt.2 hr)] at hrule
    have hboth := bothAnswer_commandRow (q := .busRead) (r := r) hw hrule (putDisp_busRead addr count hr)
    exact ⟨_, hboth, rfl, fun i hi => (busReadAnswered_respBuf_read s addr count hr i).trans (if_pos hi),
      fun i hi => (busReadAnswered_respBuf_read s addr count hr i).trans (if_neg (Nat.not_lt.2 hi))⟩
  · rw [if_pos hr] at hrule
    exact bothRefused_commandRow (q := .busRead) hw hrule

/-- The five requests with a least count, with their codes and rows (R67). -/
theorem shortPayload_row {c : Byte} {least : Nat} {i : Instr} {r : List Byte}
    (h : (c, least, i) ∈ [((0xDE : Byte), 1024, Instr.displayFlush), (0xA9, 1, .displayPower), (0xBA, 1, .displayBrightness),
      (0x9A, 1, .busWrite), (0x9B, 2, .busRead r)]) :
    ∃ q : Request, c = q.code ∧ least = leastPayload q ∧ i = commandRow r q := by
  simp only [List.mem_cons, Prod.mk.injEq, List.not_mem_nil, or_false] at h
  obtain ⟨rfl, rfl, rfl⟩ | ⟨rfl, rfl, rfl⟩ | ⟨rfl, rfl, rfl⟩ | ⟨rfl, rfl, rfl⟩ | ⟨rfl, rfl, rfl⟩ := h
  · exact ⟨.displayFlush, rfl, rfl, rfl⟩
  · exact ⟨.displayPower, rfl, rfl, rfl⟩
  · exact ⟨.displayBrightness, rfl, rfl, rfl⟩
  · exact ⟨.busWrite, rfl, rfl, rfl⟩
  · exact ⟨.busRead, rfl, rfl, rfl⟩

/-- Settles O44. -/
theorem shortPayloadIsAnswered : Obligations.ShortPayloadIsAnswered := by
  intro s r c least i hrow hw hlen
  obtain ⟨q, rfl, rfl, rfl⟩ := shortPayload_row hrow
  exact bothAnswer_commandRow hw (commandRule_short hlen) (putDisp_answerShort s q)

/-! ### The columns of the poll (R32) -/

/-- A packet that is taken leaves the IR mailbox as it is (R150). -/
theorem execDispPoll_packet {s t : State} {r : List Byte} (h : execDispPoll r s = .next t) (hidle : s.tx.state = .idle)
    (hp : s.pkt.pending = true) : t.pkt.pending = false ∧ t.irBox = s.irBox := by
  obtain ⟨hbusy | ⟨hnone, -⟩, -⟩ | ⟨-, -, hrun⟩ | ⟨-, hnone, -⟩ := execDispPoll_next h
  · exact absurd hidle hbusy
  · exact absurd (hp.symm.trans hnone) (by simp)
  · obtain ⟨c, hc, rfl⟩ := runDisp_next.1 hrun
    obtain ⟨-, ht⟩ | ⟨q, -, ht | ht | ⟨d, ht⟩ | ⟨addr, count, -, ht⟩⟩ := handlePacket_next hc <;> rw [ht] <;>
      exact ⟨rfl, rfl⟩
  · exact absurd (hp.symm.trans hnone) (by simp)

/-- RESPBUF changes below the new `resp_len` only (R48). -/
theorem execDispPoll_respBuf_read {s t : State} {r : List Byte} (h : execDispPoll r s = .next t) {i : Nat}
    (hi : t.respLen.toNat ≤ i) : t.respBuf.read i = s.respBuf.read i := by
  obtain ⟨-, rfl⟩ | ⟨-, -, hrun⟩ | ⟨-, -, -, rfl⟩ := execDispPoll_next h
  · rfl
  · obtain ⟨c, hc, rfl⟩ := runDisp_next.1 hrun
    obtain ⟨-, ht⟩ | ⟨q, -, ht | ht | ⟨d, ht⟩ | ⟨addr, count, hcount, ht⟩⟩ := handlePacket_next hc <;> rw [ht] at hi ⊢
    exact (busReadAnswered_respBuf_read s addr count hcount i).trans (if_neg (Nat.not_lt.2 hi))
  · rw [buttonSent_respBuf_read]
    exact if_neg (Nat.not_lt.2 hi)

/-- A response written in two states reads alike below its length, and sets the sender alike (R162). -/
theorem respond_some_agrees (s u : State) (code : Byte) (p : List Byte) :
    (u.respond (some (code, p))).respLen = (s.respond (some (code, p))).respLen ∧
      (u.respond (some (code, p))).tx = (s.respond (some (code, p))).tx ∧
      ∀ i, i < (s.respond (some (code, p))).respLen.toNat →
        (u.respond (some (code, p))).respBuf.read i = (s.respond (some (code, p))).respBuf.read i := by
  refine ⟨rfl, rfl, fun i hi => ?_⟩
  have hlen : (BitVec.ofNat 8 p.length).toNat ≤ p.length := by
    rw [BitVec.toNat_ofNat]; exact Nat.mod_le _ _
  have hbelow : 0 ≤ i ∧ i < 0 + p.length := ⟨Nat.zero_le i, by rw [Nat.zero_add]; exact Nat.lt_of_lt_of_le hi hlen⟩
  simp only [State.respond, Memory.read_writeAll, if_pos hbelow]

/-- Settles O47: the columns it returns are written back, and they are the same in `u`. -/
theorem pollKeepsToItsColumns : Obligations.PollKeepsToItsColumns := by
  intro s t u r h
  refine ⟨?_, fun hcfg hpkt hbox htx hpayload => ?_⟩
  · have htaken := execDispPoll_packet h
    have hresp := fun i => execDispPoll_respBuf_read (i := i) h
    obtain ⟨c, -, rfl⟩ := runDisp_next.1 h
    refine ⟨s.putDisp_rx c, s.putDisp_tick c, s.putDisp_ir c, s.putDisp_cfg c, s.putDisp_events c, s.putDisp_faultSeen c,
      rfl, rfl, rfl, rfl, fun hp => ?_, fun hp => ?_, htaken, fun i => by rw [State.putDisp_rxBuf], hresp⟩
    · rw [State.putDisp_pkt] at hp
      cases hdone : c.packetDone <;> simp_all
    · rw [State.putDisp_irBox] at hp
      cases hdone : c.eventDone <;> simp_all
  · obtain ⟨c, rfl, hu⟩ := execDispPoll_congr hcfg hpkt hbox htx hpayload h
    refine ⟨u.putDisp c, (c.call.map Output.call).toList, c.dropped.toList, hu, ?_, ?_, addOutput_eq_append _ _,
      addOutput_eq_append _ _, addDrop_eq_append _ _, addDrop_eq_append _ _, ?_⟩
    · rw [State.putDisp_pkt, State.putDisp_pkt, hpkt]
    · rw [State.putDisp_irBox, State.putDisp_irBox, hbox]
    · simp only [State.putDisp_respLen, State.putDisp_tx, State.putDisp_respBuf]
      cases c.response with
      | none => exact .inr ⟨⟨rfl, rfl, rfl⟩, rfl, rfl, rfl⟩
      | some a => exact .inl (respond_some_agrees s u a.1 a.2)

/-! ### Events that are not enabled -/

/-- Settles O48. -/
theorem eventsNotEnabled : Obligations.EventsNotEnabled := by
  refine fun s r => ⟨execTxByte_of_idle, fun hbusy => ?_, fun hp hb => ?_, ?_⟩
  · exact (execDispPoll_eq s r).trans (if_neg hbusy)
  · have hnothing : execDispPoll r s = .next s := by
      rw [execDispPoll_eq, hp, hb]
      simp
    exact hnothing
  · exact (execIrEdge_eq s s.ir.level).trans (if_neg (not_not.2 rfl))

end Sys2Proof.Machine
end

section
/-! Rows that are not selected (log entry 3). Each row of an operation's case is refused where its selecting condition,
read in the words of the statements, fails. -/

namespace Sys2Proof.Machine

section
variable {s : State}

/-- A framing state's row (R96). -/
theorem exec_framingRow_refused {b : Byte} {q : RxState} (h : ¬ (s.rx.state = q ∧ ¬ CompletesSync s.rx.syncCnt b)) :
    exec (framingRow b q) s = .refused .notSelected := by
  have hsel : s.rxColumns.selected q b = false := Bool.eq_false_iff.2 fun hsel => h (rxSelected_iff.1 hsel)
  unfold exec framingRow
  cases q <;> exact runRx_unselected hsel

theorem exec_rxEmitPacket_refused {b : Byte}
    (h : ¬ (s.rx.state = .readingChecksum ∧ ¬ CompletesSync s.rx.syncCnt b ∧ b = s.rx.chk)) :
    exec (.rxEmitPacket b) s = .refused .notSelected := by
  have hsel : (s.rxColumns.selected .readingChecksum b && b == s.rxColumns.rx.chk) = false :=
    Bool.eq_false_iff.2 fun hsel => by
      rw [Bool.and_eq_true, rxSelected_iff, beq_iff_eq] at hsel
      exact h ⟨hsel.1.1, hsel.1.2, hsel.2⟩
  unfold exec
  exact runRx_unselected hsel

theorem exec_rxSyncOverride_refused {b : Byte} (h : ¬ CompletesSync s.rx.syncCnt b) :
    exec (.rxSyncOverride b) s = .refused .notSelected := by
  unfold exec
  exact runRx_unselected (isOverride_false (c := s.rxColumns) |>.2 h)

theorem exec_rxSyncMatchStep_refused {b : Byte} (h : CompletesSync s.rx.syncCnt b) :
    exec (.rxSyncMatchStep b) s = .refused .notSelected := by
  have hsel : (!s.rxColumns.isOverride b) = false := by rw [isOverride_iff.2 h]; rfl
  unfold exec
  exact runRx_unselected hsel

/-- The row of the opcode table that names a sending state (R103); `TX_IDLE` has none. -/
def sendingRow : TxState → Option Instr
  | .idle => none
  | .sync => some .txSync
  | .lenLo => some .txLenLo
  | .lenHi => some .txLenHi
  | .cmd => some .txCmd
  | .payload => some .txPayload
  | .chk => some .txChk

theorem exec_sendingRow_refused {q : TxState} {i : Instr} (hi : sendingRow q = some i) (h : s.tx.state ≠ q) :
    exec i s = .refused .notSelected := by
  have hsel : (s.txColumns.tx.state == q) = false := beq_eq_false_iff_ne.2 h
  unfold exec
  cases q <;> cases hi <;> exact runTx_unselected (sel := fun c => c.tx.state == _) hsel

/-- A phase's row (R137). -/
theorem exec_phaseRow_refused {l : Level} {p : IrPhase} (h : ¬ (l ≠ s.ir.level ∧ s.ir.phase = p)) :
    exec (phaseRow l p) s = .refused .notSelected := by
  have hsel : s.irColumns.selected p l = false := Bool.eq_false_iff.2 fun hsel => h (irSelected_iff.1 hsel)
  unfold exec phaseRow
  cases p <;> exact runIr_unselected hsel

theorem exec_irFinish_refused {l : Level}
    (h : ¬ (l ≠ s.ir.level ∧ s.ir.phase = .bitMark ∧ l = .space ∧ InWindow s.tick.cnt s.cfg.tBitMark ∧
      s.ir.lastMark = true)) : exec (.irFinish l) s = .refused .notSelected := by
  have hsel : (s.irColumns.selected .bitMark l && l == .space && inwin s.irColumns.cnt s.irColumns.cfg.tBitMark &&
      s.irColumns.ir.lastMark) = false := Bool.eq_false_iff.2 fun hsel => by
    simp only [Bool.and_eq_true, beq_iff_eq, irSelected_iff, inwin_true_iff] at hsel
    obtain ⟨⟨⟨⟨hl, hp⟩, hspace⟩, hwin⟩, hlast⟩ := hsel
    exact h ⟨hl, hp, hspace, hwin, hlast⟩
  unfold exec
  exact runIr_unselected hsel

theorem exec_irRepeatCode_refused {l : Level}
    (h : ¬ (l ≠ s.ir.level ∧ s.ir.phase = .leadSpace ∧ l = .mark ∧ ¬ InWindow s.tick.cnt s.cfg.tLeadSpace ∧
      InWindow s.tick.cnt s.cfg.tRepeatSpace)) : exec (.irRepeatCode l) s = .refused .notSelected := by
  have hsel : (s.irColumns.selected .leadSpace l && l == .mark && !inwin s.irColumns.cnt s.irColumns.cfg.tLeadSpace &&
      inwin s.irColumns.cnt s.irColumns.cfg.tRepeatSpace) = false := Bool.eq_false_iff.2 fun hsel => by
    simp only [Bool.and_eq_true, beq_iff_eq, irSelected_iff, inwin_true_iff, Bool.not_eq_true', inwin_false_iff] at hsel
    obtain ⟨⟨⟨⟨hl, hp⟩, hmark⟩, hnew⟩, hrep⟩ := hsel
    exact h ⟨hl, hp, hmark, hnew, hrep⟩
  unfold exec
  exact runIr_unselected hsel

theorem exec_irAbort_refused {l : Level} (h : ¬ AbortsAttempt s l) : exec (.irAbort l) s = .refused .notSelected := by
  have hsel : (s.irColumns.enabled l && s.irColumns.aborts l s.irColumns.cnt) = false :=
    Bool.eq_false_iff.2 fun hsel => by
      rw [Bool.and_eq_true] at hsel
      exact h ((aborts_iff (irEnabled_iff.1 hsel.1)).1 hsel.2)
  unfold exec
  exact runIr_unselected hsel

/-- A request's row (R151). -/
theorem exec_commandRow_refused {r : List Byte} {q : Request} (h : ¬ PacketWaits s q.code) :
    exec (commandRow r q) s = .refused .notSelected := by
  have hsel : s.dispColumns.packetSelected (some q) = false := Bool.eq_false_iff.2 fun hsel => by
    obtain ⟨hidle, hp, hq⟩ := packetSelected_iff.1 hsel
    exact h ⟨hidle, hp, decodeRequest_some hq⟩
  exact (exec_commandRow r q s).trans (runDisp_unselected hsel)

theorem exec_unknownCommand_refused {c : Byte}
    (h : ¬ (PacketWaits s c ∧ c ∉ [(0x00 : Byte), 0xDE, 0xA9, 0xBA, 0x9A, 0x9B])) :
    exec (.unknownCommand c) s = .refused .notSelected := by
  have hsel : (s.dispColumns.packetSelected none && s.dispColumns.pkt.cmd == c) = false :=
    Bool.eq_false_iff.2 fun hsel => by
      rw [Bool.and_eq_true, packetSelected_iff, beq_iff_eq] at hsel
      obtain ⟨⟨hidle, hp, hnone⟩, hc⟩ := hsel
      refine h ⟨⟨hidle, hp, hc⟩, fun hmem => ?_⟩
      rw [hc] at hnone
      simp only [List.mem_cons, List.not_mem_nil, or_false] at hmem
      obtain rfl | rfl | rfl | rfl | rfl | rfl := hmem <;> cases hnone
  unfold exec
  exact runDisp_unselected hsel

theorem exec_remoteButton_refused (h : ¬ (s.tx.state = .idle ∧ s.pkt.pending = false ∧ s.irBox.pending = true)) :
    exec .remoteButton s = .refused .notSelected := by
  have hsel : (s.dispColumns.txState == .idle && !s.dispColumns.pkt.pending && s.dispColumns.irBox.pending) = false :=
    Bool.eq_false_iff.2 fun hsel => by
      simp only [Bool.and_eq_true, beq_iff_eq, Bool.not_eq_true'] at hsel
      obtain ⟨⟨hidle, hp⟩, hb⟩ := hsel
      exact h ⟨hidle, hp, hb⟩
  unfold exec
  exact runDisp_unselected hsel

end

/-- Settles O49: each listed row is one of the rows above. -/
theorem unselectedRowsRefused : Obligations.UnselectedRowsRefused := by
  intro s b c l r
  refine ⟨fun p hp h => ?_, exec_rxEmitPacket_refused, exec_rxSyncOverride_refused, exec_rxSyncMatchStep_refused,
    fun p hp h => ?_, fun p hp h => ?_, exec_irFinish_refused, exec_irRepeatCode_refused, exec_irAbort_refused,
    fun p hp h => ?_, exec_unknownCommand_refused, exec_remoteButton_refused⟩
  · have hrow : p.2 = framingRow b p.1 := by
      simp only [List.mem_cons, List.not_mem_nil, or_false] at hp
      obtain rfl | rfl | rfl | rfl | rfl := hp <;> rfl
    exact hrow ▸ exec_framingRow_refused h
  · have hrow : sendingRow p.1 = some p.2 := by
      simp only [List.mem_cons, List.not_mem_nil, or_false] at hp
      obtain rfl | rfl | rfl | rfl | rfl | rfl := hp <;> rfl
    exact exec_sendingRow_refused hrow h
  · have hrow : p.2 = phaseRow l p.1 := by
      simp only [List.mem_cons, List.not_mem_nil, or_false] at hp
      obtain rfl | rfl | rfl | rfl | rfl := hp <;> rfl
    exact hrow ▸ exec_phaseRow_refused h
  · have hrow : ∃ q : Request, p = (q.code, commandRow r q) := by
      simp only [List.mem_cons, List.not_mem_nil, or_false] at hp
      obtain rfl | rfl | rfl | rfl | rfl | rfl := hp
      exacts [⟨.nop, rfl⟩, ⟨.displayFlush, rfl⟩, ⟨.displayPower, rfl⟩, ⟨.displayBrightness, rfl⟩, ⟨.busWrite, rfl⟩,
        ⟨.busRead, rfl⟩]
    obtain ⟨q, rfl⟩ := hrow
    exact exec_commandRow_refused h

end Sys2Proof.Machine
end

section
/-! What holds of every instruction (R5, R51, R52, R192, R220), and of the operations of different units (R32, R190). Each
is read off the effects of `exec_effect` and the columns that an operation writes back. -/

namespace Sys2Proof.Machine

/-! ### The records of a run -/

theorem addDrop_cases (ds : List Drop) (d : Option Drop) : addDrop ds d = ds ∨ ∃ x, addDrop ds d = ds ++ [x] := by
  cases d with
  | none => exact .inl rfl
  | some x => exact .inr ⟨x, rfl⟩

theorem addOutput_cases (os : List Output) (o : Option Output) :
    addOutput os o = os ∨ ∃ x, addOutput os o = os ++ [x] := by
  cases o with
  | none => exact .inl rfl
  | some x => exact .inr ⟨x, rfl⟩

/-- Settles O58: the operations write at most one drop and one output back, and no configuration. -/
theorem oneDropOneOutputAtMost : Obligations.OneDropOneOutputAtMost := by
  intro i s t h
  cases exec_effect h
  case rx b _ hx =>
    obtain ⟨c, -, rfl⟩ := runRx_next.1 hx
    exact ⟨rfl, addDrop_cases _ _, .inl rfl⟩
  case tx _ hx =>
    obtain ⟨c, -, rfl⟩ := runTx_next.1 hx
    exact ⟨rfl, .inl rfl, addOutput_cases _ _⟩
  case tick hx =>
    obtain rfl := next_inj.1 hx
    exact ⟨rfl, .inl rfl, .inl rfl⟩
  case edge l _ hx =>
    obtain ⟨c, -, rfl⟩ := runIr_next.1 hx
    exact ⟨rfl, addDrop_cases _ _, .inl rfl⟩
  case poll r _ hx =>
    obtain ⟨c, -, rfl⟩ := runDisp_next.1 hx
    exact ⟨s.putDisp_cfg c, addDrop_cases _ _, addOutput_cases _ _⟩
  all_goals exact ⟨rfl, .inl rfl, .inl rfl⟩

/-! ### The fault mark (R220) -/

section
variable {s t : State}

/-- What RX.BYTE does to the mark: nothing, or what R86 asks of a stored data byte. -/
theorem execRxByte_faultSeen {b : Byte} (h : execRxByte b s = .next t) :
    t.faultSeen = s.faultSeen ∨
    s.rx.state = .readingData ∧ ¬ CompletesSync s.rx.syncCnt b ∧ t.faultSeen = (s.faultSeen || s.pkt.pending) := by
  obtain ⟨-, rfl⟩ | ⟨hc, hcase⟩ := execRxByte_next h
  · exact .inl rfl
  · obtain ⟨-, rfl⟩ | ⟨-, rfl⟩ | ⟨-, rfl⟩ | ⟨hs, -, rfl⟩ | ⟨-, -, rfl⟩ | ⟨-, -, -, rfl⟩ := hcase
    case inr.inr.inr.inl =>
      refine .inl ?_
      rw [lengthJudged_eq s b rfl]
      split
      · rfl
      · split <;> rfl
    case inr.inr.inr.inr.inl => exact .inr ⟨hs, hc, rfl⟩
    all_goals exact .inl rfl

/-- The rows that take a data byte: the operation's and the state's own (log entry 3). -/
theorem dataRow_of_readingData {i : Instr} {b : Byte} (hi : rxInput i = some b) (h : exec i s = .next t)
    (hs : s.rx.state = .readingData) (hc : ¬ CompletesSync s.rx.syncCnt b) : i = .rxByte b ∨ i = .rxReadingData b := by
  have hother : ∀ q : RxState, q ≠ .readingData → exec (framingRow b q) s ≠ .next t := fun q hq hrow => by
    rw [exec_framingRow_refused fun hsel => hq (hsel.1.symm.trans hs)] at hrow
    cases hrow
  cases i <;> simp only [rxInput, Option.some.injEq, reduceCtorEq] at hi <;> subst hi
  case rxByte => exact .inl rfl
  case rxReadingData => exact .inr rfl
  case rxSyncOverride b =>
    rw [exec_rxSyncOverride_refused hc] at h
    cases h
  case rxScanningSync b => exact absurd h (hother .scanningSync (by simp))
  case rxLengthLow b => exact absurd h (hother .lengthLow (by simp))
  case rxLengthHigh b => exact absurd h (hother .lengthHigh (by simp))
  case rxReadingChecksum b => exact absurd h (hother .readingChecksum (by simp))

/-- What any instruction does to the mark. -/
theorem exec_faultSeen {i : Instr} (h : exec i s = .next t) :
    i = .reset ∧ t.faultSeen = false ∨ t.faultSeen = s.faultSeen ∨
    s.rx.state = .readingData ∧ (∃ b, i = .rxByte b ∨ i = .rxReadingData b) ∧
      t.faultSeen = (s.faultSeen || s.pkt.pending) := by
  cases exec_effect h
  case reset => exact .inl ⟨rfl, rfl⟩
  case rx b hi hx =>
    obtain hkept | ⟨hs, hc, hmark⟩ := execRxByte_faultSeen hx
    · exact .inr (.inl hkept)
    · exact .inr (.inr ⟨hs, ⟨b, dataRow_of_readingData hi h hs hc⟩, hmark⟩)
  case tx _ hx => obtain ⟨c, -, rfl⟩ := runTx_next.1 hx; exact .inr (.inl rfl)
  case tick hx => obtain rfl := next_inj.1 hx; exact .inr (.inl rfl)
  case edge l _ hx => obtain ⟨c, -, rfl⟩ := runIr_next.1 hx; exact .inr (.inl rfl)
  case poll r _ hx => obtain ⟨c, -, rfl⟩ := runDisp_next.1 hx; exact .inr (.inl (s.putDisp_faultSeen c))
  all_goals exact .inr (.inl rfl)

end

/-- Settles O55. -/
theorem faultMarkIsSticky : Obligations.FaultMarkIsSticky := by
  intro i s t h
  obtain ⟨hreset, hclear⟩ | hkept | ⟨hs, hrow, hmark⟩ := exec_faultSeen h
  · exact ⟨fun _ hset => absurd (hclear.symm.trans hset) (by simp), fun _ _ => hreset⟩
  · exact ⟨fun hclear hset => absurd (hclear.symm.trans (hkept.symm.trans hset)) (by simp),
      fun hset hclear => absurd (hclear.symm.trans (hkept.trans hset)) (by simp)⟩
  · refine ⟨fun hclear hset => ⟨?_, hs, hrow⟩, fun hset hclear => ?_⟩
    · rw [hmark, hclear, Bool.false_or] at hset
      exact hset
    · rw [hmark, hset, Bool.true_or] at hclear
      cases hclear

/-! ### The mailboxes (R51, R52) -/

/-- What RX.BYTE does to the packet mailbox: nothing, or it is filled by the right checksum (R88). -/
theorem execRxByte_pkt {s t : State} {b : Byte} (h : execRxByte b s = .next t) :
    t.pkt = s.pkt ∨ s.rx.state = .readingChecksum ∧ b = s.rx.chk ∧ t.pkt.pending = true := by
  obtain ⟨-, rfl⟩ | ⟨-, hcase⟩ := execRxByte_next h
  · exact .inl rfl
  · obtain ⟨-, rfl⟩ | ⟨-, rfl⟩ | ⟨-, rfl⟩ | ⟨-, -, rfl⟩ | ⟨-, -, rfl⟩ | ⟨hs, hb, -, rfl⟩ := hcase
    case inr.inr.inr.inl =>
      refine .inl ?_
      rw [lengthJudged_eq s b rfl]
      split
      · rfl
      · split <;> rfl
    case inr.inr.inr.inr.inr.inr => exact .inr ⟨hs, hb, rfl⟩
    all_goals exact .inl rfl

theorem fillButton_cases (m : IrBox) (button : Option (Byte × Byte)) :
    fillButton m button = m ∨ (fillButton m button).pending = true := by
  cases button with
  | none => exact .inl rfl
  | some a => exact .inr rfl

/-- Settles O56: by the six events, what each does to the two mailboxes. -/
theorem mailboxFlagDiscipline : Obligations.MailboxFlagDiscipline := by
  intro i s t hi h
  cases i <;> simp only [isEventRow, Bool.false_eq_true] at hi
  case reset => obtain rfl := next_inj.1 h; simp
  case rxByte b =>
    have hbox : t.irBox = s.irBox := by obtain ⟨c, -, rfl⟩ := runRx_next.1 h; rfl
    obtain hpkt | ⟨hs, hb, hset⟩ := execRxByte_pkt h
    · simp_all
    · simp_all
  case txByte => obtain ⟨c, -, rfl⟩ := runTx_next.1 h; simp_all
  case tickPulse => obtain rfl := next_inj.1 h; simp_all
  case irEdge l =>
    obtain ⟨c, -, rfl⟩ := runIr_next.1 h
    obtain hbox | hset := fillButton_cases s.irBox c.button
    · simp_all
    · simp_all
  case dispPoll r =>
    obtain ⟨c, -, rfl⟩ := runDisp_next.1 h
    simp_all

/-! ### The columns of TX, TICK and IR (R32) -/

/-- Every edge that completes takes the new line state and clears the count (R127). -/
theorem execIrEdge_prologue {s t : State} {l : Level} (h : execIrEdge l s = .next t) :
    t.ir.level = l ∧ t.tick.cnt = 0 := by
  obtain ⟨-, ⟨-, -, rfl⟩ | ⟨-, -, rfl⟩ | ⟨-, -, rfl⟩ | ⟨-, -, rfl⟩ | ⟨-, -, -, rfl⟩ | ⟨-, -, v, rfl⟩ | ⟨-, -, -, rfl⟩ |
    ⟨-, -, rfl⟩ | ⟨-, d, rfl⟩⟩ := execIrEdge_next h <;> exact ⟨rfl, rfl⟩

/-- Settles O57: the columns each returns are written back, and they are the same in `u`. -/
theorem txTickIrKeepToTheirColumns : Obligations.TxTickIrKeepToTheirColumns := by
  intro s t u l hcfg
  refine ⟨fun h => ⟨?_, fun htx hbyte => ?_⟩, fun h => ⟨?_, fun htick => ?_⟩, fun h => ⟨?_, fun hir hcnt => ?_⟩⟩
  · obtain ⟨c, -, rfl⟩ := runTx_next.1 h
    exact ⟨rfl, rfl, rfl, fun _ => rfl, fun _ => rfl⟩
  · have hcols : u.txColumns = s.txColumns := by simp only [State.txColumns, hcfg, htx, hbyte]
    obtain ⟨c, rfl, hu⟩ := runTx_congr hcols h
    exact ⟨_, _, hu, by rw [State.putTx_tx, State.putTx_tx, htx], addOutput_eq_append _ _, addOutput_eq_append _ _⟩
  · obtain rfl := next_inj.1 h
    exact ⟨rfl, rfl, fun _ => rfl, fun _ => rfl⟩
  · obtain rfl := next_inj.1 h
    have hcols : u.tickColumns = s.tickColumns := by simp only [State.tickColumns, hcfg, htick]
    exact ⟨_, exec_tickPulse u, by rw [hcols, State.putTick_tick, State.putTick_tick, htick]⟩
  · obtain ⟨hlevel, hzero⟩ := execIrEdge_prologue h
    obtain ⟨c, -, rfl⟩ := runIr_next.1 h
    refine ⟨rfl, hlevel, hzero, fun hp => ?_, fun _ => rfl, fun _ => rfl⟩
    obtain hbox | hset := fillButton_cases s.irBox c.button
    · exact (congrArg IrBox.pending hbox).trans hp
    · exact hset
  · have hcols : u.irColumns = s.irColumns := by simp only [State.irColumns, hcfg, hir, hcnt]
    obtain ⟨c, rfl, hu⟩ := runIr_congr hcols h
    refine ⟨_, _, hu, rfl, rfl, ?_, ?_, addDrop_eq_append _ _, addDrop_eq_append _ _⟩
    · rw [State.putIr_tick, State.putIr_tick]
      cases c.tickEn with
      | none => exact .inr ⟨rfl, rfl⟩
      | some en => exact .inl rfl
    · rw [State.putIr_irBox, State.putIr_irBox]
      cases c.button with
      | none => exact .inr ⟨rfl, rfl⟩
      | some a => exact .inl ⟨rfl, rfl⟩

/-! ### Operations of different units commute (R190) -/

section
variable {s s1 s2 : State}

/-- RX.BYTE and TX.BYTE. -/
theorem rxByte_txByte_commute {b : Byte} (h1 : execRxByte b s = .next s1) (h2 : execTxByte s = .next s2) :
    ∃ t1 t2, execTxByte s1 = .next t1 ∧ execRxByte b s2 = .next t2 ∧ SameButDrops t1 t2 := by
  obtain ⟨c, hc, rfl⟩ := runRx_next.1 h1
  obtain ⟨d, hd, rfl⟩ := runTx_next.1 h2
  exact ⟨_, _, runTx_next.2 ⟨d, hd, rfl⟩, runRx_next.2 ⟨c, hc, rfl⟩, rfl⟩

/-- RX.BYTE and TICK.PULSE. -/
theorem rxByte_tickPulse_commute {b : Byte} (h1 : execRxByte b s = .next s1) (h2 : execTickPulse s = .next s2) :
    ∃ t1 t2, execTickPulse s1 = .next t1 ∧ execRxByte b s2 = .next t2 ∧ SameButDrops t1 t2 := by
  obtain ⟨c, hc, rfl⟩ := runRx_next.1 h1
  obtain rfl := next_inj.1 h2
  exact ⟨_, _, rfl, runRx_next.2 ⟨c, hc, rfl⟩, rfl⟩

/-- RX.BYTE and IR.EDGE. -/
theorem rxByte_irEdge_commute {b : Byte} {l : Level} (h1 : execRxByte b s = .next s1) (h2 : execIrEdge l s = .next s2) :
    ∃ t1 t2, execIrEdge l s1 = .next t1 ∧ execRxByte b s2 = .next t2 ∧ SameButDrops t1 t2 := by
  obtain ⟨c, hc, rfl⟩ := runRx_next.1 h1
  obtain ⟨d, hd, rfl⟩ := runIr_next.1 h2
  exact ⟨_, _, runIr_next.2 ⟨d, hd, rfl⟩, runRx_next.2 ⟨c, hc, rfl⟩, rfl⟩

/-- TX.BYTE and TICK.PULSE. -/
theorem txByte_tickPulse_commute (h1 : execTxByte s = .next s1) (h2 : execTickPulse s = .next s2) :
    ∃ t1 t2, execTickPulse s1 = .next t1 ∧ execTxByte s2 = .next t2 ∧ SameButDrops t1 t2 := by
  obtain ⟨c, hc, rfl⟩ := runTx_next.1 h1
  obtain rfl := next_inj.1 h2
  exact ⟨_, _, rfl, runTx_next.2 ⟨c, hc, rfl⟩, rfl⟩

/-- TX.BYTE and IR.EDGE. -/
theorem txByte_irEdge_commute {l : Level} (h1 : execTxByte s = .next s1) (h2 : execIrEdge l s = .next s2) :
    ∃ t1 t2, execIrEdge l s1 = .next t1 ∧ execTxByte s2 = .next t2 ∧ SameButDrops t1 t2 := by
  obtain ⟨c, hc, rfl⟩ := runTx_next.1 h1
  obtain ⟨d, hd, rfl⟩ := runIr_next.1 h2
  exact ⟨_, _, runIr_next.2 ⟨d, hd, rfl⟩, runTx_next.2 ⟨c, hc, rfl⟩, rfl⟩

theorem putTick_putDisp (s : State) (c : DispColumns) (d : TickColumns) :
    (s.putDisp c).putTick d = (s.putTick d).putDisp c := by
  unfold State.putDisp State.respond
  cases c.response <;> rfl

/-- TICK.PULSE and DISP.POLL. -/
theorem tickPulse_dispPoll_commute {r : List Byte} (h1 : execTickPulse s = .next s1) (h2 : execDispPoll r s = .next s2) :
    ∃ t1 t2, execDispPoll r s1 = .next t1 ∧ execTickPulse s2 = .next t2 ∧ SameButDrops t1 t2 := by
  obtain rfl := next_inj.1 h1
  obtain ⟨d, hd, rfl⟩ := runDisp_next.1 h2
  have hcols : (s.putDisp d).tickColumns = s.tickColumns := by
    simp only [State.tickColumns, State.putDisp_cfg, State.putDisp_tick]
  refine ⟨_, _, runDisp_next.2 ⟨d, hd, rfl⟩, rfl, ?_⟩
  rw [hcols, putTick_putDisp]

end

/-- Settles O59: neither operation of a pair writes a column that the other takes. -/
theorem independentUnitsCommute : Obligations.IndependentUnitsCommute := by
  intro s s1 s2 b l r i j hpair h1 h2
  simp only [List.mem_cons, Prod.mk.injEq, List.not_mem_nil, or_false] at hpair
  obtain ⟨rfl, rfl⟩ | ⟨rfl, rfl⟩ | ⟨rfl, rfl⟩ | ⟨rfl, rfl⟩ | ⟨rfl, rfl⟩ | ⟨rfl, rfl⟩ := hpair
  · exact rxByte_txByte_commute h1 h2
  · exact rxByte_tickPulse_commute h1 h2
  · exact rxByte_irEdge_commute h1 h2
  · exact txByte_tickPulse_commute h1 h2
  · exact txByte_irEdge_commute h1 h2
  · exact tickPulse_dispPoll_commute h1 h2

end Sys2Proof.Machine
end

section
/-! The clock cycle (R191, R210): its five stages are the events its pins carry, and the call of the driver port is the
one that the cycle records (R15, R152). The state after power-up (R10, R211) makes none. -/

namespace Sys2Proof.Machine

theorem andThen_eq_execAll {r : Result} {f : State → Result} {is js : List Instr} {s : State} (hr : r = execAll is s)
    (hf : ∀ m, r = .next m → f m = execAll js m) : andThen r f = execAll (is ++ js) s := by
  subst hr
  rw [execAll_append]
  cases hm : execAll is s with
  | next m => exact hf m hm
  | fault x => rfl
  | refused x => rfl

section
variable {pins : Pins} {s m : State}

theorem lineState_eq {l : Level} (hl : l = .mark ↔ pins.irIn = s.cfg.irMarkLevel) : lineState s.cfg pins.irIn = l := by
  unfold lineState
  cases l with
  | mark => exact if_pos (hl.1 rfl)
  | space => exact if_neg fun hin => by cases hl.2 hin

theorem txValid_iff : s.txValid = true ↔ s.tx.state ≠ .idle := bne_iff_ne

/-! ### What a stage of the cycle can do: nothing, or write the columns of its unit back -/

theorem cycleTick_next (h : cycleTick pins s = .next m) : m = s ∨ ∃ c, m = s.putTick c := by
  unfold cycleTick at h
  split at h
  · exact .inr ⟨_, next_inj.1 h⟩
  · exact .inl (next_inj.1 h)

theorem cycleEdge_next (h : cycleEdge pins s = .next m) : m = s ∨ ∃ c, m = s.putIr c := by
  unfold cycleEdge at h
  split at h
  · exact .inl (next_inj.1 h)
  · obtain ⟨c, -, hm⟩ := runIr_next.1 h
    exact .inr ⟨c, hm⟩

theorem cycleRx_next (h : cycleRx pins s = .next m) : m = s ∨ ∃ b c, execRxByte b s = .next m ∧ m = s.putRx c := by
  unfold cycleRx at h
  split at h
  · obtain ⟨c, -, hm⟩ := runRx_next.1 h
    exact .inr ⟨_, c, h, hm⟩
  · exact .inl (next_inj.1 h)

theorem cycleTx_next (h : cycleTx pins s = .next m) : m = s ∨ ∃ c, m = s.putTx c := by
  unfold cycleTx at h
  split at h
  · obtain ⟨c, -, hm⟩ := runTx_next.1 h
    exact .inr ⟨c, hm⟩
  · exact .inl (next_inj.1 h)

/-! ### The stages as scripts -/

theorem cycleTick_eq : cycleTick pins s = execAll (if pins.tickPulse = true then [.tickPulse] else []) s := by
  unfold cycleTick
  split
  · exact (execAll_singleton .tickPulse s).symm
  · rfl

theorem cycleEdge_eq {l : Level} (hl : lineState s.cfg pins.irIn = l) :
    cycleEdge pins s = execAll (if l = s.ir.level then [] else [.irEdge l]) s := by
  subst hl
  unfold cycleEdge
  split
  · rfl
  · exact (execAll_singleton (.irEdge _) s).symm

theorem cycleRx_eq : cycleRx pins s = execAll (pins.rx.toList.map .rxByte) s := by
  unfold cycleRx
  cases pins.rx with
  | none => rfl
  | some b => exact (execAll_singleton (.rxByte b) s).symm

theorem cycleTx_eq :
    cycleTx pins s = execAll (if s.tx.state ≠ .idle ∧ pins.txReady = true then [.txByte] else []) s := by
  simp only [cycleTx, Bool.and_eq_true, txValid_iff]
  split
  · exact (execAll_singleton .txByte s).symm
  · rfl

theorem cyclePoll_eq : cyclePoll pins s = execAll (pins.poll.toList.map .dispPoll) s := by
  unfold cyclePoll
  cases pins.poll with
  | none => rfl
  | some r => exact (execAll_singleton (.dispPoll r) s).symm

/-! ### The whole cycle -/

/-- Neither the tick nor the edge nor the received byte writes a register of the sender. -/
theorem tx_of_beforeTx (h : andThen (andThen (cycleTick pins s) (cycleEdge pins)) (cycleRx pins) = .next m) :
    m.tx = s.tx := by
  obtain ⟨m2, h2, hrx⟩ := andThen_next.1 h
  obtain ⟨m1, htick, hedge⟩ := andThen_next.1 h2
  have e1 : m1.tx = s.tx := by obtain rfl | ⟨c, rfl⟩ := cycleTick_next htick <;> rfl
  have e2 : m2.tx = m1.tx := by obtain rfl | ⟨c, rfl⟩ := cycleEdge_next hedge <;> rfl
  have e3 : m.tx = m2.tx := by obtain rfl | ⟨b, c, -, rfl⟩ := cycleRx_next hrx <;> rfl
  exact e3.trans (e2.trans e1)

/-- The tick writes neither the configuration nor a register of the decoder. -/
theorem cfg_ir_of_cycleTick (h : cycleTick pins s = .next m) : m.cfg = s.cfg ∧ m.ir = s.ir := by
  obtain rfl | ⟨c, rfl⟩ := cycleTick_next h <;> exact ⟨rfl, rfl⟩

theorem cycleInterrupts_eq {l : Level} (hl : lineState s.cfg pins.irIn = l) :
    cycleInterrupts pins s = execAll ((if pins.tickPulse = true then [.tickPulse] else []) ++
      (if l = s.ir.level then [] else [.irEdge l]) ++ pins.rx.toList.map .rxByte ++
      (if s.tx.state ≠ .idle ∧ pins.txReady = true then [.txByte] else [])) s := by
  refine andThen_eq_execAll (andThen_eq_execAll (andThen_eq_execAll cycleTick_eq fun m hm => ?_) fun m _ => cycleRx_eq)
    fun m hm => ?_
  · obtain ⟨hcfg, hir⟩ := cfg_ir_of_cycleTick hm
    rw [cycleEdge_eq (hcfg ▸ hl), hir]
  · rw [cycleTx_eq, tx_of_beforeTx hm]

/-! ### The driver port (R15, R152) -/

/-- The four events before the poll record bytes of the sender, and no driver call. -/
theorem cycleInterrupts_outputs (h : cycleInterrupts pins s = .next m) :
    ∃ bs : List Byte, m.outputs = s.outputs ++ bs.map .tx := by
  obtain ⟨m3, h3, htx⟩ := andThen_next.1 h
  obtain ⟨m2, h2, hrx⟩ := andThen_next.1 h3
  obtain ⟨m1, htick, hedge⟩ := andThen_next.1 h2
  have e1 : m1.outputs = s.outputs := by obtain rfl | ⟨c, rfl⟩ := cycleTick_next htick <;> rfl
  have e2 : m2.outputs = m1.outputs := by obtain rfl | ⟨c, rfl⟩ := cycleEdge_next hedge <;> rfl
  have e3 : m3.outputs = m2.outputs := by obtain rfl | ⟨b, c, -, rfl⟩ := cycleRx_next hrx <;> rfl
  have hkept : m3.outputs = s.outputs := e3.trans (e2.trans e1)
  obtain rfl | ⟨c, rfl⟩ := cycleTx_next htx
  · exact ⟨[], by simp [hkept]⟩
  · refine ⟨c.sent.toList, ?_⟩
    rw [State.putTx_outputs, addOutput_eq_append, hkept]
    cases c.sent <;> rfl

theorem drvPort_of_rst (h : pins.rst = true) : drvPort pins s = none := if_pos h

theorem drvPort_of_next (hrst : pins.rst = false) (h : cycleInterrupts pins s = .next m) :
    drvPort pins s = pins.poll.bind m.pollCall := by
  rw [drvPort, if_neg (by simp [hrst]), h]
  cases pins.poll <;> rfl

/-- The poll records the call of the port, and no other. -/
theorem cyclePoll_outputs {t : State} (h : cyclePoll pins m = .next t) :
    t.outputs = m.outputs ++ ((pins.poll.bind m.pollCall).map .call).toList := by
  unfold cyclePoll at h
  cases hp : pins.poll with
  | none =>
    rw [hp] at h
    obtain rfl := next_inj.1 h
    simp
  | some r =>
    rw [hp] at h
    obtain ⟨c, hc, rfl⟩ := runDisp_next.1 h
    have hcall : m.pollCall r = c.call := by unfold State.pollCall; rw [hc]
    rw [State.putDisp_outputs, addOutput_eq_append, Option.bind_some, hcall]

theorem drvPort_eq_some_iff {t : State} (hrst : pins.rst = false) (h : cycle pins s = .next t) (c : DrvCall) :
    drvPort pins s = some c ↔ Output.call c ∈ t.outputs.drop s.outputs.length := by
  rw [cycle, if_neg (by simp [hrst])] at h
  obtain ⟨m, hm, hpoll⟩ := andThen_next.1 h
  obtain ⟨bs, hbs⟩ := cycleInterrupts_outputs hm
  rw [drvPort_of_next hrst hm, cyclePoll_outputs hpoll, hbs, List.append_assoc, List.drop_left]
  cases pins.poll.bind m.pollCall <;> simp [eq_comm]

end

/-- Settles O60. -/
theorem cycleOrdersCoincidentEvents : Obligations.CycleOrdersCoincidentEvents := by
  intro s pins l hl
  refine ⟨fun hrst => ⟨if_pos hrst, ?_⟩, fun hrst => ⟨?_, fun t ht => ⟨Option.isSome_iff_exists, ?_⟩⟩⟩
  · rw [drvReq, drvPort_of_rst hrst]
    rfl
  · rw [cycle, if_neg (by simp [hrst])]
    exact andThen_eq_execAll (cycleInterrupts_eq (lineState_eq hl)) fun m _ => cyclePoll_eq
  · exact drvPort_eq_some_iff hrst ht

/-! ### The state after power-up -/

section
variable {pins : Pins} {s m : State}

/-- With no packet waiting and none about to be completed, the poll of the cycle finds none. -/
theorem cycleInterrupts_pkt (hrx : s.rx.state ≠ .readingChecksum) (h : cycleInterrupts pins s = .next m) :
    m.pkt = s.pkt := by
  obtain ⟨m3, h3, htx⟩ := andThen_next.1 h
  obtain ⟨m2, h2, hbyte⟩ := andThen_next.1 h3
  obtain ⟨m1, htick, hedge⟩ := andThen_next.1 h2
  have e1 : m1.pkt = s.pkt ∧ m1.rx = s.rx := by obtain rfl | ⟨c, rfl⟩ := cycleTick_next htick <;> exact ⟨rfl, rfl⟩
  have e2 : m2.pkt = m1.pkt ∧ m2.rx = m1.rx := by obtain rfl | ⟨c, rfl⟩ := cycleEdge_next hedge <;> exact ⟨rfl, rfl⟩
  have e3 : m3.pkt = m2.pkt := by
    obtain rfl | ⟨b, c, hx, -⟩ := cycleRx_next hbyte
    · rfl
    · obtain hkept | ⟨hs, -⟩ := execRxByte_pkt hx
      · exact hkept
      · rw [e2.2, e1.2] at hs
        exact absurd hs hrx
  have e4 : m.pkt = m3.pkt := by obtain rfl | ⟨c, rfl⟩ := cycleTx_next htx <;> rfl
  exact e4.trans (e3.trans (e2.1.trans e1.1))

/-- Without a packet the poll calls no driver (R150). -/
theorem poll_call_of_noPacket {c d : DispColumns} {r : List Byte} (hp : c.pkt.pending = false)
    (h : c.poll r = .next d) : d.call = c.call := by
  rw [DispColumns.poll, if_neg (c := c.pkt.pending = true) (by simp [hp])] at h
  split at h
  · split at h <;> obtain rfl := next_inj.1 h <;> rfl
  · obtain rfl := next_inj.1 h
    rfl

theorem pollCall_of_noPacket (hp : s.pkt.pending = false) (r : List Byte) : s.pollCall r = none := by
  unfold State.pollCall
  split
  · next d hd => exact poll_call_of_noPacket hp hd
  · rfl

theorem drvReq_of_noPacket (hrx : s.rx.state ≠ .readingChecksum) (hp : s.pkt.pending = false) :
    drvReq pins s = false := by
  unfold drvReq drvPort
  split
  · rfl
  · split
    · next m r hm _ => rw [pollCall_of_noPacket ((congrArg PktBox.pending (cycleInterrupts_pkt hrx hm)).trans hp)]; rfl
    · rfl

end

/-- Settles O5. -/
theorem resetStateHoldsSpecValues : Obligations.ResetStateHoldsSpecValues := by
  refine ⟨rfl, ?_⟩
  rintro rx resp _ rfl
  have hscan : (State.powerUp rx resp).rx.state = .scanningSync := rfl
  exact ⟨rfl, rfl, rfl, rfl, rfl, rfl, rfl, rfl, rfl, fun i => ⟨Memory.read_ofBytes rx i, Memory.read_ofBytes resp i⟩,
    rfl, rfl, fun pins => drvReq_of_noPacket (by rw [hscan]; decide) rfl⟩

end Sys2Proof.Machine
end
